-- ==== Sys2Proof/Word.lean ====
section
/-! DEFINITION. The word types of the machine. -/

namespace Sys2Proof

/-- A data byte: the width of every bus access and of A, X, Y, SP and P (spec/00_scope.md R5). -/
abbrev Byte := BitVec 8

/-- An address or a 16-bit register value: the width of PC and of CPU addresses (spec/00_scope.md R5). -/
abbrev Word := BitVec 16

end Sys2Proof
end

