-- ==== Sys2Proof/Config.lean ====
section
/-! DEFINITION. What a launch of the machine fixes (the capital-letter parameters of spec/00_scope.md R5) and the one free value. -/

namespace Sys2Proof

/-- The parameters that spec/00_scope.md R5 names in capitals and a model may take as an argument.
They never change while the machine runs. The cycle counts have the width of `cycles` (R16). -/
structure Params where
  /-- `RESET_CYCLES` (decision D6). -/
  resetCycles : Byte
  /-- `IRQ_CYCLES` (decision D7). -/
  irqCycles : Byte
  /-- `NMI_CYCLES` (decision D7). -/
  nmiCycles : Byte
  /-- `NMI_SETS_I` (decision D8). -/
  nmiSetsI : Bool
  /-- `BRANCH_EXTRA_CYCLES` (decision D11). -/
  branchExtraCycles : Bool
  /-- `UNMAPPED_READ_VALUE` (decision D12). -/
  unmappedReadValue : Byte
  deriving DecidableEq, Repr

/-- The defaults of spec/00_scope.md R5. -/
def Params.default : Params where
  resetCycles := 7
  irqCycles := 7
  nmiCycles := 7
  nmiSetsI := true
  branchExtraCycles := true
  unmappedReadValue := 0x00

/-- The unconstrained byte that the `n`-th read of a PPU register returns (spec/60_exceptions.md R260,
decision D15): "a fresh free value on every read, which no rule constrains". It has no body, so nothing
can be proved of its value. -/
opaque Config.freeByte : Nat → Byte

end Sys2Proof
end

