-- ==== Sys2Proof/Syntax.lean ====
section
/-! DEFINITION. The instructions: the twelve addressing modes, the operand forms, and one constructor per mnemonic. -/

namespace Sys2Proof

/-- The twelve addressing modes of spec/30_encoding.md R81. -/
inductive Mode where
  | imp | imm | zp0 | zpx | zpy | rel | abs | abx | aby | ind | izx | izy
  deriving DecidableEq, Repr

/-- The three instruction formats of spec/30_encoding.md R80: 1, 2 and 3 bytes. -/
inductive Format where
  | f1 | f2 | f3
  deriving DecidableEq, Repr

/-- An operand: an addressing mode with the operand bytes it consumes, a 16-bit operand already assembled
low byte first (spec/30_encoding.md R81, R82). -/
inductive Operand where
  /-- implied, and the accumulator operand of ASL, LSR, ROL, ROR -/
  | imp
  /-- immediate, `#$nn` -/
  | imm (v : Byte)
  /-- zero page, `$nn` -/
  | zp0 (z : Byte)
  /-- zero page indexed by X, `$nn,X` -/
  | zpx (z : Byte)
  /-- zero page indexed by Y, `$nn,Y` -/
  | zpy (z : Byte)
  /-- relative, a signed displacement -/
  | rel (d : Byte)
  /-- absolute, `$hhll` -/
  | abs (w : Word)
  /-- absolute indexed by X, `$hhll,X` -/
  | abx (w : Word)
  /-- absolute indexed by Y, `$hhll,Y` -/
  | aby (w : Word)
  /-- indirect, `($hhll)` -/
  | ind (w : Word)
  /-- indexed indirect, `($nn,X)` -/
  | izx (z : Byte)
  /-- indirect indexed, `($nn),Y` -/
  | izy (z : Byte)
  deriving DecidableEq, Repr

/-- The addressing mode of an operand. -/
def Operand.mode : Operand → Mode
  | .imp => .imp
  | .imm _ => .imm
  | .zp0 _ => .zp0
  | .zpx _ => .zpx
  | .zpy _ => .zpy
  | .rel _ => .rel
  | .abs _ => .abs
  | .abx _ => .abx
  | .aby _ => .aby
  | .ind _ => .ind
  | .izx _ => .izx
  | .izy _ => .izy

/-- The instructions of spec/opcode_table.json: one constructor per mnemonic, and the rows that share a
mnemonic are the operand forms of its constructor (DESIGN CHOICE, log entry 1). `xxx` is the operation of
all illegal opcode bytes and carries the byte (spec/30_encoding.md R85). -/
inductive Instr where
  -- load and store (spec/41_load_store.md)
  | lda (o : Operand) | ldx (o : Operand) | ldy (o : Operand)
  | sta (o : Operand) | stx (o : Operand) | sty (o : Operand)
  -- arithmetic (spec/42_arithmetic.md)
  | adc (o : Operand) | sbc (o : Operand) | inc (o : Operand) | dec (o : Operand)
  | inx | iny | dex | dey
  -- logical (spec/43_logical.md)
  | and (o : Operand) | ora (o : Operand) | eor (o : Operand) | bit (o : Operand)
  -- shift and rotate (spec/44_shift_rotate.md)
  | asl (o : Operand) | lsr (o : Operand) | rol (o : Operand) | ror (o : Operand)
  -- compare (spec/45_compare.md)
  | cmp (o : Operand) | cpx (o : Operand) | cpy (o : Operand)
  -- branches, with their displacement byte (spec/46_branch.md)
  | bcc (d : Byte) | bcs (d : Byte) | beq (d : Byte) | bmi (d : Byte)
  | bne (d : Byte) | bpl (d : Byte) | bvc (d : Byte) | bvs (d : Byte)
  -- stack (spec/47_stack.md)
  | pha | php | pla | plp
  -- jumps, calls, returns, software interrupt (spec/48_jump_subroutine_interrupt_return.md)
  | jmp (o : Operand) | jsr (w : Word) | rts | rti | brk
  -- flags, transfers, no operation, illegal (spec/49_flags_transfer_misc.md)
  | clc | cld | cli | clv | sec | sed | sei
  | tax | tay | tsx | txa | txs | tya
  | nop | xxx (op : Byte)
  deriving DecidableEq, Repr

/-- The operand of an instruction; the instructions of one mode only carry just its bytes. -/
def Instr.operand : Instr → Operand
  | .lda o | .ldx o | .ldy o | .sta o | .stx o | .sty o => o
  | .adc o | .sbc o | .inc o | .dec o => o
  | .and o | .ora o | .eor o | .bit o => o
  | .asl o | .lsr o | .rol o | .ror o => o
  | .cmp o | .cpx o | .cpy o => o
  | .jmp o => o
  | .jsr w => .abs w
  | .bcc d | .bcs d | .beq d | .bmi d | .bne d | .bpl d | .bvc d | .bvs d => .rel d
  | .inx | .iny | .dex | .dey | .pha | .php | .pla | .plp | .rts | .rti | .brk => .imp
  | .clc | .cld | .cli | .clv | .sec | .sed | .sei => .imp
  | .tax | .tay | .tsx | .txa | .txs | .tya | .nop | .xxx _ => .imp

end Sys2Proof
end

