-- ==== Sys2Proof/WellFormed.lean ====
section
/-! DEFINITION. Which operand forms each instruction has, and which bytes are illegal opcodes. -/

namespace Sys2Proof

/-- The 105 opcode bytes that spec/30_encoding.md R84 leaves unassigned, as R85 lists them. -/
def illegalOpcodes : List Byte :=
  [0x02, 0x03, 0x04, 0x07, 0x0B, 0x0C, 0x0F, 0x12, 0x13, 0x14, 0x17, 0x1A, 0x1B, 0x1C, 0x1F]
  ++ [0x22, 0x23, 0x27, 0x2B, 0x2F, 0x32, 0x33, 0x34, 0x37, 0x3A, 0x3B, 0x3C, 0x3F]
  ++ [0x42, 0x43, 0x44, 0x47, 0x4B, 0x4F, 0x52, 0x53, 0x54, 0x57, 0x5A, 0x5B, 0x5C, 0x5F]
  ++ [0x62, 0x63, 0x64, 0x67, 0x6B, 0x6F, 0x72, 0x73, 0x74, 0x77, 0x7A, 0x7B, 0x7C, 0x7F]
  ++ [0x80, 0x82, 0x83, 0x87, 0x89, 0x8B, 0x8F, 0x92, 0x93, 0x97, 0x9B, 0x9C, 0x9E, 0x9F]
  ++ [0xA3, 0xA7, 0xAB, 0xAF, 0xB2, 0xB3, 0xB7, 0xBB, 0xBF]
  ++ [0xC2, 0xC3, 0xC7, 0xCB, 0xCF, 0xD2, 0xD3, 0xD4, 0xD7, 0xDA, 0xDB, 0xDC, 0xDF]
  ++ [0xE2, 0xE3, 0xE7, 0xEB, 0xEF, 0xF2, 0xF3, 0xF4, 0xF7, 0xFA, 0xFB, 0xFC, 0xFF]

/-- Modes of a data byte read by LDA, ADC, SBC, AND, ORA, EOR, CMP (R130, R140, R141, R160 to R162, R180). -/
def dataModes : List Mode := [.imm, .zp0, .zpx, .abs, .abx, .aby, .izx, .izy]

/-- Modes of INC and DEC (R142, R143). -/
def modifyModes : List Mode := [.zp0, .zpx, .abs, .abx]

/-- Modes of ASL, LSR, ROL, ROR: the accumulator form and the memory forms (R170 to R173). -/
def shiftModes : List Mode := .imp :: modifyModes

/-- Modes of CPX and CPY (R181, R182). -/
def compareIndexModes : List Mode := [.imm, .zp0, .abs]

/-- The check that an instruction is one of the table's rows: its operand is of a mode that the
instruction's rule gives it, and the byte of `xxx` is an illegal opcode. -/
def Instr.wf : Instr → Bool
  | .lda o | .adc o | .sbc o | .and o | .ora o | .eor o | .cmp o => dataModes.contains o.mode
  | .ldx o => [Mode.imm, .zp0, .zpy, .abs, .aby].contains o.mode
  | .ldy o => [Mode.imm, .zp0, .zpx, .abs, .abx].contains o.mode
  | .sta o => [Mode.zp0, .zpx, .abs, .abx, .aby, .izx, .izy].contains o.mode
  | .stx o => [Mode.zp0, .zpy, .abs].contains o.mode
  | .sty o => [Mode.zp0, .zpx, .abs].contains o.mode
  | .inc o | .dec o => modifyModes.contains o.mode
  | .asl o | .lsr o | .rol o | .ror o => shiftModes.contains o.mode
  | .bit o => [Mode.zp0, .abs].contains o.mode
  | .cpx o | .cpy o => compareIndexModes.contains o.mode
  | .jmp o => [Mode.abs, .ind].contains o.mode
  | .xxx op => illegalOpcodes.contains op
  | .inx | .iny | .dex | .dey | .pha | .php | .pla | .plp => true
  | .bcc _ | .bcs _ | .beq _ | .bmi _ | .bne _ | .bpl _ | .bvc _ | .bvs _ => true
  | .jsr _ | .rts | .rti | .brk | .clc | .cld | .cli | .clv | .sec | .sed | .sei => true
  | .tax | .tay | .tsx | .txa | .txs | .tya | .nop => true

end Sys2Proof
end

