-- ==== Sys2Proof/Decode.lean ====
section
/-! DEFINITION. The byte helpers, the decoder table and decoder, and the encoder written from the by-mnemonic table. -/

namespace Sys2Proof

/-! ## Byte order and extension (spec/00_scope.md R6) -/

/-- `zext_16(b)`: the byte as a 16-bit value (R6). -/
def zext16 (b : Byte) : Word := b.setWidth 16

/-- `sext_16(b)`: `b` if bit 7 is 0, else `0xFF00 | b` (R6). -/
def sext16 (b : Byte) : Word := b.signExtend 16

/-- `hi:lo`, the 16-bit value `hi * 256 + lo` (R6). -/
def word16 (hi lo : Byte) : Word := hi ++ lo

/-- Bits 7 to 0 of a word. -/
def loByte (w : Word) : Byte := w.extractLsb' 0 8

/-- Bits 15 to 8 of a word: its page. -/
def hiByte (w : Word) : Byte := w.extractLsb' 8 8

/-! ## The decoder table (spec/10_state.md R18, spec/30_encoding.md R84, R85) -/

/-- The format, and so the length, that a mode gives its instruction (R80, R81). -/
def Mode.format : Mode → Format
  | .imp => .f1
  | .imm | .zp0 | .zpx | .zpy | .rel | .izx | .izy => .f2
  | .abs | .abx | .aby | .ind => .f3

/-- The length in bytes of a format (R80). -/
def Format.length : Format → Nat
  | .f1 => 1
  | .f2 => 2
  | .f3 => 3

/-- One entry of `DECODE`: the addressing mode, the base cycle count, and the operation as the instruction
it builds from its operand bytes (low byte first; the bytes a format lacks are ignored). -/
structure Descriptor where
  mode : Mode
  base : Byte
  build : Byte → Byte → Instr

/-- An entry of implied mode. -/
def Row.imp (i : Instr) (n : Byte) : Descriptor := ⟨.imp, n, fun _ _ => i⟩
/-- An entry of implied mode whose operand is the accumulator (R105). -/
def Row.acc (f : Operand → Instr) (n : Byte) : Descriptor := ⟨.imp, n, fun _ _ => f .imp⟩
/-- An entry of immediate mode. -/
def Row.imm (f : Operand → Instr) (n : Byte) : Descriptor := ⟨.imm, n, fun lo _ => f (.imm lo)⟩
/-- An entry of zero-page mode. -/
def Row.zp0 (f : Operand → Instr) (n : Byte) : Descriptor := ⟨.zp0, n, fun lo _ => f (.zp0 lo)⟩
/-- An entry of zero-page X mode. -/
def Row.zpx (f : Operand → Instr) (n : Byte) : Descriptor := ⟨.zpx, n, fun lo _ => f (.zpx lo)⟩
/-- An entry of zero-page Y mode. -/
def Row.zpy (f : Operand → Instr) (n : Byte) : Descriptor := ⟨.zpy, n, fun lo _ => f (.zpy lo)⟩
/-- An entry of relative mode. -/
def Row.rel (f : Byte → Instr) (n : Byte) : Descriptor := ⟨.rel, n, fun lo _ => f lo⟩
/-- An entry of absolute mode. -/
def Row.abs (f : Operand → Instr) (n : Byte) : Descriptor :=
  ⟨.abs, n, fun lo hi => f (.abs (word16 hi lo))⟩
/-- An entry of absolute mode for the subroutine call. -/
def Row.sub (f : Word → Instr) (n : Byte) : Descriptor := ⟨.abs, n, fun lo hi => f (word16 hi lo)⟩
/-- An entry of absolute X mode. -/
def Row.abx (f : Operand → Instr) (n : Byte) : Descriptor :=
  ⟨.abx, n, fun lo hi => f (.abx (word16 hi lo))⟩
/-- An entry of absolute Y mode. -/
def Row.aby (f : Operand → Instr) (n : Byte) : Descriptor :=
  ⟨.aby, n, fun lo hi => f (.aby (word16 hi lo))⟩
/-- An entry of indirect mode. -/
def Row.ind (f : Operand → Instr) (n : Byte) : Descriptor :=
  ⟨.ind, n, fun lo hi => f (.ind (word16 hi lo))⟩
/-- An entry of indexed indirect mode. -/
def Row.izx (f : Operand → Instr) (n : Byte) : Descriptor := ⟨.izx, n, fun lo _ => f (.izx lo)⟩
/-- An entry of indirect indexed mode. -/
def Row.izy (f : Operand → Instr) (n : Byte) : Descriptor := ⟨.izy, n, fun lo _ => f (.izy lo)⟩
/-- The one descriptor of the illegal opcodes: implied, two cycles, one byte (R85, decision D14). -/
def Row.illegal (op : Byte) : Descriptor := ⟨.imp, 2, fun _ _ => .xxx op⟩

/-- Opcodes 0x00 to 0x0F of the map of spec/30_encoding.md R84. -/
def decodeRow0 : List Descriptor :=
  [Row.imp .brk 7, Row.izx .ora 6, Row.illegal 0x02, Row.illegal 0x03,
   Row.illegal 0x04, Row.zp0 .ora 3, Row.zp0 .asl 5, Row.illegal 0x07,
   Row.imp .php 3, Row.imm .ora 2, Row.acc .asl 2, Row.illegal 0x0B,
   Row.illegal 0x0C, Row.abs .ora 4, Row.abs .asl 6, Row.illegal 0x0F]

/-- Opcodes 0x10 to 0x1F of the map of spec/30_encoding.md R84. -/
def decodeRow1 : List Descriptor :=
  [Row.rel .bpl 2, Row.izy .ora 5, Row.illegal 0x12, Row.illegal 0x13,
   Row.illegal 0x14, Row.zpx .ora 4, Row.zpx .asl 6, Row.illegal 0x17,
   Row.imp .clc 2, Row.aby .ora 4, Row.illegal 0x1A, Row.illegal 0x1B,
   Row.illegal 0x1C, Row.abx .ora 4, Row.abx .asl 7, Row.illegal 0x1F]

/-- Opcodes 0x20 to 0x2F of the map of spec/30_encoding.md R84. -/
def decodeRow2 : List Descriptor :=
  [Row.sub .jsr 6, Row.izx .and 6, Row.illegal 0x22, Row.illegal 0x23,
   Row.zp0 .bit 3, Row.zp0 .and 3, Row.zp0 .rol 5, Row.illegal 0x27,
   Row.imp .plp 4, Row.imm .and 2, Row.acc .rol 2, Row.illegal 0x2B,
   Row.abs .bit 4, Row.abs .and 4, Row.abs .rol 6, Row.illegal 0x2F]

/-- Opcodes 0x30 to 0x3F of the map of spec/30_encoding.md R84. -/
def decodeRow3 : List Descriptor :=
  [Row.rel .bmi 2, Row.izy .and 5, Row.illegal 0x32, Row.illegal 0x33,
   Row.illegal 0x34, Row.zpx .and 4, Row.zpx .rol 6, Row.illegal 0x37,
   Row.imp .sec 2, Row.aby .and 4, Row.illegal 0x3A, Row.illegal 0x3B,
   Row.illegal 0x3C, Row.abx .and 4, Row.abx .rol 7, Row.illegal 0x3F]

/-- Opcodes 0x40 to 0x4F of the map of spec/30_encoding.md R84. -/
def decodeRow4 : List Descriptor :=
  [Row.imp .rti 6, Row.izx .eor 6, Row.illegal 0x42, Row.illegal 0x43,
   Row.illegal 0x44, Row.zp0 .eor 3, Row.zp0 .lsr 5, Row.illegal 0x47,
   Row.imp .pha 3, Row.imm .eor 2, Row.acc .lsr 2, Row.illegal 0x4B,
   Row.abs .jmp 3, Row.abs .eor 4, Row.abs .lsr 6, Row.illegal 0x4F]

/-- Opcodes 0x50 to 0x5F of the map of spec/30_encoding.md R84. -/
def decodeRow5 : List Descriptor :=
  [Row.rel .bvc 2, Row.izy .eor 5, Row.illegal 0x52, Row.illegal 0x53,
   Row.illegal 0x54, Row.zpx .eor 4, Row.zpx .lsr 6, Row.illegal 0x57,
   Row.imp .cli 2, Row.aby .eor 4, Row.illegal 0x5A, Row.illegal 0x5B,
   Row.illegal 0x5C, Row.abx .eor 4, Row.abx .lsr 7, Row.illegal 0x5F]

/-- Opcodes 0x60 to 0x6F of the map of spec/30_encoding.md R84. -/
def decodeRow6 : List Descriptor :=
  [Row.imp .rts 6, Row.izx .adc 6, Row.illegal 0x62, Row.illegal 0x63,
   Row.illegal 0x64, Row.zp0 .adc 3, Row.zp0 .ror 5, Row.illegal 0x67,
   Row.imp .pla 4, Row.imm .adc 2, Row.acc .ror 2, Row.illegal 0x6B,
   Row.ind .jmp 5, Row.abs .adc 4, Row.abs .ror 6, Row.illegal 0x6F]

/-- Opcodes 0x70 to 0x7F of the map of spec/30_encoding.md R84. -/
def decodeRow7 : List Descriptor :=
  [Row.rel .bvs 2, Row.izy .adc 5, Row.illegal 0x72, Row.illegal 0x73,
   Row.illegal 0x74, Row.zpx .adc 4, Row.zpx .ror 6, Row.illegal 0x77,
   Row.imp .sei 2, Row.aby .adc 4, Row.illegal 0x7A, Row.illegal 0x7B,
   Row.illegal 0x7C, Row.abx .adc 4, Row.abx .ror 7, Row.illegal 0x7F]

/-- Opcodes 0x80 to 0x8F of the map of spec/30_encoding.md R84. -/
def decodeRow8 : List Descriptor :=
  [Row.illegal 0x80, Row.izx .sta 6, Row.illegal 0x82, Row.illegal 0x83,
   Row.zp0 .sty 3, Row.zp0 .sta 3, Row.zp0 .stx 3, Row.illegal 0x87,
   Row.imp .dey 2, Row.illegal 0x89, Row.imp .txa 2, Row.illegal 0x8B,
   Row.abs .sty 4, Row.abs .sta 4, Row.abs .stx 4, Row.illegal 0x8F]

/-- Opcodes 0x90 to 0x9F of the map of spec/30_encoding.md R84. -/
def decodeRow9 : List Descriptor :=
  [Row.rel .bcc 2, Row.izy .sta 6, Row.illegal 0x92, Row.illegal 0x93,
   Row.zpx .sty 4, Row.zpx .sta 4, Row.zpy .stx 4, Row.illegal 0x97,
   Row.imp .tya 2, Row.aby .sta 5, Row.imp .txs 2, Row.illegal 0x9B,
   Row.illegal 0x9C, Row.abx .sta 5, Row.illegal 0x9E, Row.illegal 0x9F]

/-- Opcodes 0xA0 to 0xAF of the map of spec/30_encoding.md R84. -/
def decodeRowA : List Descriptor :=
  [Row.imm .ldy 2, Row.izx .lda 6, Row.imm .ldx 2, Row.illegal 0xA3,
   Row.zp0 .ldy 3, Row.zp0 .lda 3, Row.zp0 .ldx 3, Row.illegal 0xA7,
   Row.imp .tay 2, Row.imm .lda 2, Row.imp .tax 2, Row.illegal 0xAB,
   Row.abs .ldy 4, Row.abs .lda 4, Row.abs .ldx 4, Row.illegal 0xAF]

/-- Opcodes 0xB0 to 0xBF of the map of spec/30_encoding.md R84. -/
def decodeRowB : List Descriptor :=
  [Row.rel .bcs 2, Row.izy .lda 5, Row.illegal 0xB2, Row.illegal 0xB3,
   Row.zpx .ldy 4, Row.zpx .lda 4, Row.zpy .ldx 4, Row.illegal 0xB7,
   Row.imp .clv 2, Row.aby .lda 4, Row.imp .tsx 2, Row.illegal 0xBB,
   Row.abx .ldy 4, Row.abx .lda 4, Row.aby .ldx 4, Row.illegal 0xBF]

/-- Opcodes 0xC0 to 0xCF of the map of spec/30_encoding.md R84. -/
def decodeRowC : List Descriptor :=
  [Row.imm .cpy 2, Row.izx .cmp 6, Row.illegal 0xC2, Row.illegal 0xC3,
   Row.zp0 .cpy 3, Row.zp0 .cmp 3, Row.zp0 .dec 5, Row.illegal 0xC7,
   Row.imp .iny 2, Row.imm .cmp 2, Row.imp .dex 2, Row.illegal 0xCB,
   Row.abs .cpy 4, Row.abs .cmp 4, Row.abs .dec 6, Row.illegal 0xCF]

/-- Opcodes 0xD0 to 0xDF of the map of spec/30_encoding.md R84. -/
def decodeRowD : List Descriptor :=
  [Row.rel .bne 2, Row.izy .cmp 5, Row.illegal 0xD2, Row.illegal 0xD3,
   Row.illegal 0xD4, Row.zpx .cmp 4, Row.zpx .dec 6, Row.illegal 0xD7,
   Row.imp .cld 2, Row.aby .cmp 4, Row.illegal 0xDA, Row.illegal 0xDB,
   Row.illegal 0xDC, Row.abx .cmp 4, Row.abx .dec 7, Row.illegal 0xDF]

/-- Opcodes 0xE0 to 0xEF of the map of spec/30_encoding.md R84. -/
def decodeRowE : List Descriptor :=
  [Row.imm .cpx 2, Row.izx .sbc 6, Row.illegal 0xE2, Row.illegal 0xE3,
   Row.zp0 .cpx 3, Row.zp0 .sbc 3, Row.zp0 .inc 5, Row.illegal 0xE7,
   Row.imp .inx 2, Row.imm .sbc 2, Row.imp .nop 2, Row.illegal 0xEB,
   Row.abs .cpx 4, Row.abs .sbc 4, Row.abs .inc 6, Row.illegal 0xEF]

/-- Opcodes 0xF0 to 0xFF of the map of spec/30_encoding.md R84. -/
def decodeRowF : List Descriptor :=
  [Row.rel .beq 2, Row.izy .sbc 5, Row.illegal 0xF2, Row.illegal 0xF3,
   Row.illegal 0xF4, Row.zpx .sbc 4, Row.zpx .inc 6, Row.illegal 0xF7,
   Row.imp .sed 2, Row.aby .sbc 4, Row.illegal 0xFA, Row.illegal 0xFB,
   Row.illegal 0xFC, Row.abx .sbc 4, Row.abx .inc 7, Row.illegal 0xFF]

/-- The sixteen rows of the opcode map, by the high nibble of the opcode byte. -/
def decodeRows : List (List Descriptor) :=
  [decodeRow0, decodeRow1, decodeRow2, decodeRow3, decodeRow4, decodeRow5, decodeRow6, decodeRow7]
  ++ [decodeRow8, decodeRow9, decodeRowA, decodeRowB, decodeRowC, decodeRowD, decodeRowE, decodeRowF]

/-- `DECODE[op]` (R18, R83). The table has all 256 entries, so the default is never taken. -/
def descriptor (op : Byte) : Descriptor :=
  (decodeRows.getD (op.toNat / 16) []).getD (op.toNat % 16) (Row.illegal op)

/-- The instruction that an opcode byte and its operand bytes stand for; total, as decoding is (R83). -/
def instrOf (op lo hi : Byte) : Instr := (descriptor op).build lo hi

/-! ## The decoder -/

/-- Why a byte list does not start with an instruction: every opcode byte decodes (R83), so only for want of bytes. -/
inductive DecodeError where
  /-- there is no opcode byte -/
  | noOpcode
  /-- the opcode byte's mode takes more operand bytes than there are -/
  | operandMissing (op : Byte)
  deriving DecidableEq, Repr

/-- Reads one instruction from the front of a byte list and answers the rest. Operand bytes follow the opcode in
ascending address order, low byte first (R80, R82). -/
def decode : List Byte → Except DecodeError (Instr × List Byte)
  | [] => .error .noOpcode
  | op :: rest =>
    match (descriptor op).mode.format, rest with
    | .f1, rest => .ok (instrOf op 0 0, rest)
    | .f2, lo :: rest => .ok (instrOf op lo 0, rest)
    | .f3, lo :: hi :: rest => .ok (instrOf op lo hi, rest)
    | .f2, [] => .error (.operandMissing op)
    | .f3, [] => .error (.operandMissing op)
    | .f3, [_] => .error (.operandMissing op)

/-- The bytes of a table word: bit 0 is the least significant bit of the first byte, and the bits above
`nbits` are 0. Three bytes, the longest instruction (R80). -/
def tableBytes (nbits w : Nat) : List Byte :=
  let v := w % 2 ^ nbits
  [BitVec.ofNat 8 v, BitVec.ofNat 8 (v / 256), BitVec.ofNat 8 (v / 65536)]

/-- The instruction the decoder reads from a word numbered as spec/opcode_table.json numbers it. -/
def decodeTableWord (nbits w : Nat) : Option Instr :=
  match decode (tableBytes nbits w) with
  | .ok (i, _) => some i
  | .error _ => none

/-! ## The encoder, from the by-mnemonic table of R84 -/

/-- The entry of a mnemonic's row for a mode. -/
def byMode (m : Mode) : List (Mode × Byte) → Option Byte
  | [] => none
  | (k, op) :: rest => if k = m then some op else byMode m rest

/-- The opcode byte of an instruction; none for an operand form the instruction does not have. -/
def Instr.opcode : Instr → Option Byte
  | .adc o => byMode o.mode
      [(.imm, 0x69), (.zp0, 0x65), (.zpx, 0x75), (.abs, 0x6D),
       (.abx, 0x7D), (.aby, 0x79), (.izx, 0x61), (.izy, 0x71)]
  | .and o => byMode o.mode
      [(.imm, 0x29), (.zp0, 0x25), (.zpx, 0x35), (.abs, 0x2D),
       (.abx, 0x3D), (.aby, 0x39), (.izx, 0x21), (.izy, 0x31)]
  | .asl o => byMode o.mode
      [(.imp, 0x0A), (.zp0, 0x06), (.zpx, 0x16), (.abs, 0x0E),
       (.abx, 0x1E)]
  | .bcc _ => some 0x90
  | .bcs _ => some 0xB0
  | .beq _ => some 0xF0
  | .bit o => byMode o.mode [(.zp0, 0x24), (.abs, 0x2C)]
  | .bmi _ => some 0x30
  | .bne _ => some 0xD0
  | .bpl _ => some 0x10
  | .brk => some 0x00
  | .bvc _ => some 0x50
  | .bvs _ => some 0x70
  | .clc => some 0x18
  | .cld => some 0xD8
  | .cli => some 0x58
  | .clv => some 0xB8
  | .cmp o => byMode o.mode
      [(.imm, 0xC9), (.zp0, 0xC5), (.zpx, 0xD5), (.abs, 0xCD),
       (.abx, 0xDD), (.aby, 0xD9), (.izx, 0xC1), (.izy, 0xD1)]
  | .cpx o => byMode o.mode [(.imm, 0xE0), (.zp0, 0xE4), (.abs, 0xEC)]
  | .cpy o => byMode o.mode [(.imm, 0xC0), (.zp0, 0xC4), (.abs, 0xCC)]
  | .dec o => byMode o.mode [(.zp0, 0xC6), (.zpx, 0xD6), (.abs, 0xCE), (.abx, 0xDE)]
  | .dex => some 0xCA
  | .dey => some 0x88
  | .eor o => byMode o.mode
      [(.imm, 0x49), (.zp0, 0x45), (.zpx, 0x55), (.abs, 0x4D),
       (.abx, 0x5D), (.aby, 0x59), (.izx, 0x41), (.izy, 0x51)]
  | .inc o => byMode o.mode [(.zp0, 0xE6), (.zpx, 0xF6), (.abs, 0xEE), (.abx, 0xFE)]
  | .inx => some 0xE8
  | .iny => some 0xC8
  | .jmp o => byMode o.mode [(.abs, 0x4C), (.ind, 0x6C)]
  | .jsr _ => some 0x20
  | .lda o => byMode o.mode
      [(.imm, 0xA9), (.zp0, 0xA5), (.zpx, 0xB5), (.abs, 0xAD),
       (.abx, 0xBD), (.aby, 0xB9), (.izx, 0xA1), (.izy, 0xB1)]
  | .ldx o => byMode o.mode
      [(.imm, 0xA2), (.zp0, 0xA6), (.zpy, 0xB6), (.abs, 0xAE),
       (.aby, 0xBE)]
  | .ldy o => byMode o.mode
      [(.imm, 0xA0), (.zp0, 0xA4), (.zpx, 0xB4), (.abs, 0xAC),
       (.abx, 0xBC)]
  | .lsr o => byMode o.mode
      [(.imp, 0x4A), (.zp0, 0x46), (.zpx, 0x56), (.abs, 0x4E),
       (.abx, 0x5E)]
  | .nop => some 0xEA
  | .ora o => byMode o.mode
      [(.imm, 0x09), (.zp0, 0x05), (.zpx, 0x15), (.abs, 0x0D),
       (.abx, 0x1D), (.aby, 0x19), (.izx, 0x01), (.izy, 0x11)]
  | .pha => some 0x48
  | .php => some 0x08
  | .pla => some 0x68
  | .plp => some 0x28
  | .rol o => byMode o.mode
      [(.imp, 0x2A), (.zp0, 0x26), (.zpx, 0x36), (.abs, 0x2E),
       (.abx, 0x3E)]
  | .ror o => byMode o.mode
      [(.imp, 0x6A), (.zp0, 0x66), (.zpx, 0x76), (.abs, 0x6E),
       (.abx, 0x7E)]
  | .rti => some 0x40
  | .rts => some 0x60
  | .sbc o => byMode o.mode
      [(.imm, 0xE9), (.zp0, 0xE5), (.zpx, 0xF5), (.abs, 0xED),
       (.abx, 0xFD), (.aby, 0xF9), (.izx, 0xE1), (.izy, 0xF1)]
  | .sec => some 0x38
  | .sed => some 0xF8
  | .sei => some 0x78
  | .sta o => byMode o.mode
      [(.zp0, 0x85), (.zpx, 0x95), (.abs, 0x8D), (.abx, 0x9D),
       (.aby, 0x99), (.izx, 0x81), (.izy, 0x91)]
  | .stx o => byMode o.mode [(.zp0, 0x86), (.zpy, 0x96), (.abs, 0x8E)]
  | .sty o => byMode o.mode [(.zp0, 0x84), (.zpx, 0x94), (.abs, 0x8C)]
  | .tax => some 0xAA
  | .tay => some 0xA8
  | .tsx => some 0xBA
  | .txa => some 0x8A
  | .txs => some 0x9A
  | .tya => some 0x98
  | .xxx op => if illegalOpcodes.contains op then some op else none

/-- The operand bytes, low byte first (R80, R82). -/
def Operand.bytes : Operand → List Byte
  | .imp => []
  | .imm b | .zp0 b | .zpx b | .zpy b | .rel b | .izx b | .izy b => [b]
  | .abs w | .abx w | .aby w | .ind w => [loByte w, hiByte w]

/-- The bytes of a well-formed instruction: the opcode byte, then the operand bytes (R80). -/
def encode (i : Instr) : List Byte :=
  match i.opcode with
  | some op => op :: i.operand.bytes
  | none => []

/-- The base cycle count `d.base` of an instruction's descriptor (R84, R100). An operand form the instruction
does not have stands in no row and is given the illegal descriptor's 2 (log entry 2). -/
def Instr.baseCycles (i : Instr) : Byte :=
  match i.opcode with
  | some op => (descriptor op).base
  | none => 2

/-- The descriptor's name, "diagnostic only" (R18); `???` for the illegal opcodes (R85). -/
def Instr.name : Instr → String
  | .adc _ => "ADC"
  | .and _ => "AND"
  | .asl _ => "ASL"
  | .bcc _ => "BCC"
  | .bcs _ => "BCS"
  | .beq _ => "BEQ"
  | .bit _ => "BIT"
  | .bmi _ => "BMI"
  | .bne _ => "BNE"
  | .bpl _ => "BPL"
  | .brk => "BRK"
  | .bvc _ => "BVC"
  | .bvs _ => "BVS"
  | .clc => "CLC"
  | .cld => "CLD"
  | .cli => "CLI"
  | .clv => "CLV"
  | .cmp _ => "CMP"
  | .cpx _ => "CPX"
  | .cpy _ => "CPY"
  | .dec _ => "DEC"
  | .dex => "DEX"
  | .dey => "DEY"
  | .eor _ => "EOR"
  | .inc _ => "INC"
  | .inx => "INX"
  | .iny => "INY"
  | .jmp _ => "JMP"
  | .jsr _ => "JSR"
  | .lda _ => "LDA"
  | .ldx _ => "LDX"
  | .ldy _ => "LDY"
  | .lsr _ => "LSR"
  | .nop => "NOP"
  | .ora _ => "ORA"
  | .pha => "PHA"
  | .php => "PHP"
  | .pla => "PLA"
  | .plp => "PLP"
  | .rol _ => "ROL"
  | .ror _ => "ROR"
  | .rti => "RTI"
  | .rts => "RTS"
  | .sbc _ => "SBC"
  | .sec => "SEC"
  | .sed => "SED"
  | .sei => "SEI"
  | .sta _ => "STA"
  | .stx _ => "STX"
  | .sty _ => "STY"
  | .tax => "TAX"
  | .tay => "TAY"
  | .tsx => "TSX"
  | .txa => "TXA"
  | .txs => "TXS"
  | .tya => "TYA"
  | .xxx _ => "???"

end Sys2Proof
end

