-- ==== Sys2Proof/Machine/State.lean ====
section
/-! DEFINITION. The machine's state as plain data, its faults and refusals, and the state after reset. -/

namespace Sys2Proof.Machine

/-- A storage array as plain data: its cells (index, byte), indexes strictly rising, and no cell equal to what an
unlisted index reads as (`Memory.Wf`). -/
abbrev Memory := List Host.Cell

/-- What an index that a memory does not list reads as: the default of `RAM_INIT` and `VRAM_INIT` (spec/00_scope.md
R5, decision D19). ROM images are loaded whole, so in them it only abbreviates a zero byte (log entry 3). -/
def Memory.unlisted : Byte := 0x00

/-- The cartridge's mirroring mode (spec/10_state.md R22). -/
inductive Mirror where
  | vertical | horizontal | oneScreenLo | oneScreenHi
  deriving DecidableEq, Repr

/-- The program-bank counts a loaded cartridge can have (spec/20_memory.md R50, R54). -/
inductive PrgBanks where
  | one | two
  deriving DecidableEq, Repr

/-- The mapper engine's closed set of variants; the one variant defined is 000, built from the two bank counts
(spec/10_state.md R23, spec/20_memory.md R49, R55). -/
inductive Mapper where
  | m000 (prgBanks : PrgBanks) (chrBanks : Nat)
  deriving DecidableEq, Repr

/-- The cartridge (spec/10_state.md R22): constant after `Cartridge::load`. -/
structure Cartridge where
  /-- program ROM, indexed by offset -/
  prg : Memory
  /-- pattern ROM, indexed by offset -/
  chr : Memory
  mapperId : Byte
  prgBanks : PrgBanks
  chrBanks : Nat
  mirror : Mirror
  /-- true for every cartridge that load returns; nothing reads it -/
  valid : Bool
  deriving DecidableEq, Repr

/-- The parsed ROM bundle that `Cartridge::load` takes (spec/20_memory.md R54). -/
structure Bundle where
  prg : List Byte
  chr : List Byte
  mapperId : Byte
  prgBanks : Nat
  chrBanks : Nat
  mirror : Mirror
  deriving DecidableEq, Repr

/-- An event of the event sink (spec/60_exceptions.md R241, decision D21). `IllegalAddressingMode` cannot occur
(R242, spec/30_encoding.md R86). -/
inductive Event where
  /-- an illegal opcode byte and the address it was fetched from -/
  | illegalOpcode (opcode : Byte) (addr : Word)
  deriving DecidableEq, Repr

/-- The operations of the external interface, each one atomic step of the machine (spec/00_scope.md R8). -/
inductive HostCall where
  /-- `Bus.clock()` (R256) -/
  | clock
  /-- `Bus.reset()` (R280) -/
  | reset
  /-- `Bus.read(addr, readOnly)` (R41, R72) -/
  | busRead (addr : Word) (readOnly : Bool)
  /-- `Bus.write(addr, data)` (R42, R72) -/
  | busWrite (addr : Word) (data : Byte)
  /-- `irq()` (R246) -/
  | irq
  /-- `nmi()` (R247) -/
  | nmi
  /-- `clear_frame_complete` (R259) -/
  | clearFrameComplete
  /-- `ppu_read(addr)` (R57) -/
  | ppuRead (addr : Word)
  /-- `ppu_write(addr, data)` (R58) -/
  | ppuWrite (addr : Word) (data : Byte)
  /-- `Cartridge::load(bundle)` (R54) -/
  | load (bundle : Bundle)
  deriving DecidableEq, Repr

/-- How far the host has come in the order that spec/00_scope.md R8 and spec/70_reset_and_hazards.md R284 give its calls
(log entry 4). -/
inductive Phase where
  /-- nothing but `Cartridge::load` may have been called: a load is allowed -/
  | loading
  /-- a call has been served or a cartridge is in place: no load any more, and the first `Bus.reset()` is still to come -/
  | built
  /-- the first `Bus.reset()` has been made: `Bus.clock()`, `irq()` and `nmi()` are allowed -/
  | running
  deriving DecidableEq, Repr

/-- The machine's state. The first block is the CPU (spec/10_state.md R10 to R17), then the Bus (R19), the PPU (R20),
the cartridge (R22, R23) and the event sink (R24); the last block is the model's own. -/
structure State where
  /-- accumulator A (R10) -/
  a : Byte
  /-- index register X (R10) -/
  x : Byte
  /-- index register Y (R10) -/
  y : Byte
  /-- stack pointer SP (R11) -/
  sp : Byte
  /-- program counter PC (R12) -/
  pc : Word
  /-- status register P: C Z I D B U V N from bit 0 to bit 7 (R13) -/
  p : Byte
  /-- transient: last fetched operand byte (R16) -/
  fetched : Byte
  /-- transient: resolved absolute address (R16) -/
  addrAbs : Word
  /-- transient: resolved relative address (R16) -/
  addrRel : Word
  /-- transient: current opcode (R16) -/
  opcode : Byte
  /-- remaining cycles of the instruction in flight (R16, R17) -/
  cycles : Byte
  /-- the 2048 bytes of internal RAM (R19) -/
  ram : Memory
  /-- the system clock counter (R19) -/
  sysclk : Nat
  /-- physical nametable 0, 1024 bytes (R20) -/
  nametable0 : Memory
  /-- physical nametable 1, 1024 bytes (R20) -/
  nametable1 : Memory
  /-- the 32 palette bytes (R20) -/
  palette : Memory
  /-- scanline, -1 to 260 (R20) -/
  scanline : Int
  /-- cycle within the scanline, 0 to 340 (R20) -/
  cycle : Nat
  /-- the frame-complete flag (R20) -/
  frameComplete : Bool
  /-- the cartridge, if one is inserted (R19, R22) -/
  cart : Option Cartridge
  /-- the event sink, oldest event first (R24) -/
  events : List Event
  /-- the launch parameters, fixed for the machine (spec/00_scope.md R5) -/
  params : Params
  /-- how far the host has come before the machine runs (spec/00_scope.md R8, spec/70_reset_and_hazards.md R284; log
  entry 4) -/
  phase : Phase
  /-- how many PPU register reads have been made: the index of the next free value (log entry 5) -/
  freeCount : Nat
  /-- the calls the host makes next, oldest first; with none left it calls `Bus.clock()` (log entry 6) -/
  driver : List HostCall
  /-- the byte that the host's latest read call returned (log entry 6) -/
  reply : Option Byte
  deriving DecidableEq, Repr

/-- Why the machine stops with a fault. No instruction raises one: "No operation panics/aborts the process except
construction-time fatal errors" (spec/60_exceptions.md R240). -/
inductive Fault where
  /-- `LoadError` (spec/60_exceptions.md R244): raised by the host call `load` on a malformed bundle or an unknown
  mapper id (spec/20_memory.md R54). Safe: the spec calls it fatal and says the state is unchanged. -/
  | loadError
  deriving DecidableEq, Repr

/-- Why the model gives a step no meaning. No instruction raises one. -/
inductive Refusal where
  /-- an instruction without a meaning yet; raised by no arm of this model. Safe. -/
  | notModelled (mnemonic : String)
  /-- raised by the host calls `clock`, `irq`, `nmi` before the first `Bus.reset()`, which the spec says to refuse
  (spec/70_reset_and_hazards.md R284, decision D35). Safe. -/
  | notReset
  /-- raised by the host calls `ppuRead`, `ppuWrite` with no cartridge, which the spec says to refuse
  (spec/20_memory.md R57, decision D39). Safe. -/
  | noCartridge
  /-- raised by the host call `load` once any other call, or a load, has been served: the spec has load "before any of
  them" (spec/00_scope.md R8, spec/20_memory.md R54, spec/70_reset_and_hazards.md R284). Safe. -/
  | loadNotFirst
  deriving DecidableEq, Repr

/-- The three outcomes of a step of this machine. -/
abbrev Result := Host.Outcome State Fault Refusal

/-- The machine right after `Bus.reset()` (spec/10_state.md R32, R33), constructed with no cartridge, the default
parameters and zero RAM and VRAM (R31). With no cartridge both bytes of the reset vector read
`UNMAPPED_READ_VALUE`, so PC is 0x0000 (R34). -/
def State.reset : State where
  a := 0x00
  x := 0x00
  y := 0x00
  sp := 0xFD
  pc := 0x0000
  p := 0x24
  fetched := 0x00
  addrAbs := 0x0000
  addrRel := 0x0000
  opcode := 0x00
  cycles := 7
  ram := []
  sysclk := 0
  nametable0 := []
  nametable1 := []
  palette := []
  scanline := -1
  cycle := 0
  frameComplete := false
  cart := none
  events := []
  params := Params.default
  phase := .running
  freeCount := 0
  driver := []
  reply := none

end Sys2Proof.Machine
end

