-- ==== Sys2Proof/Machine/Regs.lean ====
section
/-! DEFINITION. The one way to write each register and counter of State. -/

namespace Sys2Proof.Machine.State

variable (s : State)

/-- Write A (R10). -/
def setA (v : Byte) : State := { s with a := v }
/-- Write X (R10). -/
def setX (v : Byte) : State := { s with x := v }
/-- Write Y (R10). -/
def setY (v : Byte) : State := { s with y := v }
/-- Write SP (R11). -/
def setSp (v : Byte) : State := { s with sp := v }
/-- Write PC (R12). -/
def setPc (v : Word) : State := { s with pc := v }
/-- Write P (R13). -/
def setP (v : Byte) : State := { s with p := v }
/-- Write the transient `fetched` (R16). -/
def setFetched (v : Byte) : State := { s with fetched := v }
/-- Write the transient `addr_abs` (R16). -/
def setAddrAbs (v : Word) : State := { s with addrAbs := v }
/-- Write the transient `addr_rel` (R16). -/
def setAddrRel (v : Word) : State := { s with addrRel := v }
/-- Write the transient `opcode` (R16). -/
def setOpcode (v : Byte) : State := { s with opcode := v }
/-- Write `cycles` (R16). -/
def setCycles (v : Byte) : State := { s with cycles := v }
/-- Replace the RAM array (R19). -/
def setRam (m : Memory) : State := { s with ram := m }
/-- Write the system clock counter (R19). -/
def setSysclk (n : Nat) : State := { s with sysclk := n }
/-- Replace physical nametable 0 (R20). -/
def setNametable0 (m : Memory) : State := { s with nametable0 := m }
/-- Replace physical nametable 1 (R20). -/
def setNametable1 (m : Memory) : State := { s with nametable1 := m }
/-- Replace the palette array (R20). -/
def setPalette (m : Memory) : State := { s with palette := m }
/-- Write the two PPU position counters (R20). -/
def setPpuPosition (line : Int) (dot : Nat) : State := { s with scanline := line, cycle := dot }
/-- Write `frame_complete` (R20). -/
def setFrameComplete (b : Bool) : State := { s with frameComplete := b }
/-- Insert a cartridge (R54). -/
def setCart (c : Option Cartridge) : State := { s with cart := c }
/-- Append an event to the sink (R24). -/
def report (e : Event) : State := { s with events := s.events ++ [e] }
/-- Note that `Bus.reset()` has been made (R284). -/
def setPhase (ph : Phase) : State := { s with phase := ph }
/-- Advance the index of the free values (R260). -/
def bumpFree (n : Nat) : State := { s with freeCount := s.freeCount + n }
/-- Replace the host's pending calls (R8). -/
def setDriver (cs : List HostCall) : State := { s with driver := cs }
/-- Record what a read call of the host returned (R8). -/
def setReply (r : Option Byte) : State := { s with reply := r }

end Sys2Proof.Machine.State
end

