-- ==== Sys2Proof/Machine/Flags.lean ====
section
/-! DEFINITION. The bits of P and every flag computation of the spec. -/

namespace Sys2Proof.Machine

/-- The eight bits of P by name (spec/10_state.md R13). -/
inductive Flag where
  | c | z | i | d | b | u | v | n
  deriving DecidableEq, Repr

/-- The bit position of a flag: the order of R13 from bit 0 to bit 7 (decision D34). -/
def Flag.bit : Flag → Nat
  | .c => 0
  | .z => 1
  | .i => 2
  | .d => 3
  | .b => 4
  | .u => 5
  | .v => 6
  | .n => 7

/-- The byte with only a flag's bit set. -/
def Flag.mask (f : Flag) : Byte := 1 <<< f.bit

/-- Reads a flag of P. -/
def State.flag (s : State) (f : Flag) : Bool := s.p.getLsbD f.bit

/-- Writes a flag of P. -/
def State.setFlag (s : State) (f : Flag) (on : Bool) : State :=
  s.setP (if on then s.p ||| f.mask else s.p &&& ~~~f.mask)

/-- `SetZN(v)`: Z from `v = 0`, N from bit 7 of `v` (spec/00_scope.md R7). -/
def State.setZN (s : State) (v : Byte) : State := (s.setFlag .z (v = 0)).setFlag .n (v.getLsbD 7)

/-- The carry flag as a number, 0 or 1. -/
def State.carry (s : State) : Nat := (s.flag .c).toNat

/-- The byte PHP and BRK push: P with Break and the unused bit set (R201, R214, decision D9). -/
def State.pushedP (s : State) : Byte := s.p ||| 0x30

/-- The byte `irq()` and `nmi()` push: P with the unused bit set and Break clear (R246, R247, decision D9). -/
def State.interruptP (s : State) : Byte := (s.p ||| 0x20) &&& 0xEF

/-- What PLP and RTI load into P from a pulled byte: bit 5 stays 1 and bit 4 stays 0 (R203, R213, decision D9). -/
def restoredP (v : Byte) : Byte := (v &&& 0xCF) ||| 0x20

/-- The common addition of ADC and SBC: A plus `m` plus carry, with C, V, Z, N (R140, R148). Always binary:
D is not read. -/
def addToA (m : Byte) (s : State) : State :=
  let t := s.a.toNat + m.toNat + s.carry
  let r := BitVec.ofNat 8 t
  let s := (s.setFlag .c (t > 255)).setFlag .v ((~~~(s.a ^^^ m) &&& (s.a ^^^ r)).getLsbD 7)
  (s.setA r).setZN r

/-- SBC adds the complement of its operand (R141). -/
def subFromA (m : Byte) (s : State) : State := addToA (m ^^^ 0xFF) s

/-- `Compare(R, M)`: C from `R >= M`, Z from `R = M`, N from bit 7 of the difference (spec/45_compare.md). -/
def compareWith (r m : Byte) (s : State) : State :=
  ((s.setFlag .c (m ≤ r)).setFlag .z (r = m)).setFlag .n ((r - m).getLsbD 7)

/-- BIT: Z from A and M, N and V from M itself (R163). -/
def bitTest (m : Byte) (s : State) : State :=
  ((s.setFlag .z (s.a &&& m = 0)).setFlag .n (m.getLsbD 7)).setFlag .v (m.getLsbD 6)

/-- A shift or rotate result: the byte, with C the bit shifted out and Z, N from the byte. -/
def shifted (r : Byte) (out : Bool) (s : State) : Byte × State := (r, (s.setFlag .c out).setZN r)

/-- ASL (R170). -/
def shiftLeft (v : Byte) (s : State) : Byte × State := shifted (v <<< 1) (v.getLsbD 7) s

/-- LSR (R171). -/
def shiftRight (v : Byte) (s : State) : Byte × State := shifted (v >>> 1) (v.getLsbD 0) s

/-- ROL: the old carry enters bit 0 (R172). -/
def rotateLeft (v : Byte) (s : State) : Byte × State :=
  shifted ((v <<< 1) ||| (if s.flag .c then 0x01 else 0x00)) (v.getLsbD 7) s

/-- ROR: the old carry enters bit 7 (R173). -/
def rotateRight (v : Byte) (s : State) : Byte × State :=
  shifted ((if s.flag .c then 0x80 else 0x00) ||| (v >>> 1)) (v.getLsbD 0) s

/-- INC (R142). -/
def increment (v : Byte) (s : State) : Byte × State := (v + 1, s.setZN (v + 1))

/-- DEC (R143). -/
def decrement (v : Byte) (s : State) : Byte × State := (v - 1, s.setZN (v - 1))

end Sys2Proof.Machine
end

