-- ==== Sys2Proof/Machine/Memory.lean ====
section
/-! DEFINITION. Reading and writing one byte of a storage array, and the canonical form. -/

namespace Sys2Proof.Machine

/-- The canonical form: indexes strictly rising, and no cell equal to what an unlisted index reads as. -/
abbrev Memory.wf (m : Memory) : Prop :=
  m.Pairwise (fun c d => c.1 < d.1) ∧ ∀ c ∈ m, c.2 ≠ Memory.unlisted

/-- A canonical memory that is an array of `n` bytes: every index is below `n`. -/
abbrev Memory.fits (m : Memory) (n : Nat) : Prop :=
  Memory.wf m ∧ ∀ c ∈ m, c.1 < n

/-- The byte at index `k`. -/
def Memory.read : Memory → Nat → Byte
  | [], _ => Memory.unlisted
  | (j, b) :: rest, k => if j = k then b else Memory.read rest k

/-- Puts a cell in front of a memory, unless its byte is what an unlisted index reads as. -/
def Memory.listed (k : Nat) (v : Byte) (m : Memory) : Memory :=
  if v = Memory.unlisted then m else (k, v) :: m

/-- Writes byte `v` at index `k`, keeping the canonical form. -/
def Memory.write : Memory → Nat → Byte → Memory
  | [], k, v => Memory.listed k v []
  | (j, b) :: rest, k, v =>
    if k < j then Memory.listed k v ((j, b) :: rest)
    else if k = j then Memory.listed k v rest
    else (j, b) :: Memory.write rest k v

/-- The memory holding a list of bytes from index `k` on. -/
def Memory.ofBytesFrom (k : Nat) : List Byte → Memory
  | [] => []
  | b :: rest => Memory.listed k b (Memory.ofBytesFrom (k + 1) rest)

/-- The memory holding a list of bytes from index 0 on. -/
def Memory.ofBytes (bs : List Byte) : Memory := Memory.ofBytesFrom 0 bs

end Sys2Proof.Machine
end

