-- ==== Sys2Proof/Machine/Ops.lean ====
section
/-! DEFINITION. The mapper, the cartridge, the Bus, the stack, and taking and leaving an interrupt. -/

namespace Sys2Proof.Machine

/-! ## Mapper engine (spec/20_memory.md R49 to R55) -/

/-- The variant that a mapper identifier selects, built from the bank counts; ids 1 to 255 are unknown (R55). -/
def mapperFor (id : Byte) (prgBanks : PrgBanks) (chrBanks : Nat) : Option Mapper :=
  if id = 0 then some (.m000 prgBanks chrBanks) else none

/-- `cpu_map_read` (R50): variant 000 claims 0x8000 and above, masked to the program ROM's size. -/
def cpuMapRead : Mapper → Word → Option Nat
  | .m000 banks _, addr =>
    if 0x8000 ≤ addr.toNat then
      match banks with
      | .one => some (addr &&& 0x3FFF).toNat
      | .two => some (addr &&& 0x7FFF).toNat
    else none

/-- `cpu_map_write` (R51): the same claim as for a read. -/
def cpuMapWrite : Mapper → Word → Option Nat
  | .m000 banks chr, addr => cpuMapRead (.m000 banks chr) addr

/-- `ppu_map_read` (R52): variant 000 maps 0x0000 to 0x1FFF directly into pattern ROM. -/
def ppuMapRead : Mapper → Word → Option Nat
  | .m000 _ _, addr => if addr.toNat ≤ 0x1FFF then some addr.toNat else none

/-- `ppu_map_write` (R53): variant 000 never claims. -/
def ppuMapWrite : Mapper → Word → Option Nat
  | .m000 _ _, _ => none

/-- The mapper a cartridge owns (R23, R55). -/
def cartMapper (c : Cartridge) : Option Mapper := mapperFor c.mapperId c.prgBanks c.chrBanks

/-! ## Cartridge, CPU side (spec/20_memory.md R48) -/

/-- Where in program ROM an inserted cartridge maps a CPU read; none if it does not claim the address. -/
def cartReadOffset (addr : Word) (s : State) : Option (Cartridge × Nat) :=
  match s.cart with
  | none => none
  | some c =>
    match cartMapper c with
    | none => none
    | some m =>
      match cpuMapRead m addr with
      | none => none
      | some k => some (c, k)

/-- `CartCpuRead(addr)` (R48). -/
def cartCpuRead (addr : Word) (s : State) : Option Byte :=
  match cartReadOffset addr s with
  | none => none
  | some (c, k) => some (c.prg.read k)

/-- `CartCpuWrite(addr, data)`: whether the cartridge claims the write; a claimed byte is discarded (R48). -/
def cartClaimsWrite (addr : Word) (s : State) : Bool :=
  match s.cart with
  | none => false
  | some c =>
    match cartMapper c with
    | none => false
    | some m => (cpuMapWrite m addr).isSome

/-! ## PPU register port (spec/60_exceptions.md R260) -/

/-- `PpuRegRead(i, readOnly)`: a fresh unconstrained byte. Neither the register nor `readOnly` constrains it, and it
changes no state the spec lists (R46, R260, log entry 5). -/
def ppuRegRead (_index : Word) (_readOnly : Bool) (s : State) : Byte × State :=
  (Config.freeByte s.freeCount, s.bumpFree 1)

/-- `PpuRegWrite(i, data)`: changes no state the spec lists (R260). -/
def ppuRegWrite (_index : Word) (_data : Byte) (s : State) : State := s

/-! ## The Bus (spec/20_memory.md R41 to R47) -/

/-- The index in RAM of an address of the RAM window (R43). -/
def ramIndex (addr : Word) : Nat := (addr &&& 0x07FF).toNat

/-- `BusRead(addr, readOnly)` (R41): cartridge, then RAM, then PPU registers, then the unmapped value. -/
def busRead (addr : Word) (readOnly : Bool) (s : State) : Byte × State :=
  match cartCpuRead addr s with
  | some v => (v, s)
  | none =>
    if addr.toNat ≤ 0x1FFF then (s.ram.read (ramIndex addr), s)
    else if addr.toNat ≤ 0x3FFF then ppuRegRead (addr &&& 0x0007) readOnly s
    else (s.params.unmappedReadValue, s)

/-- `BusWrite(addr, data)` (R42), in the same order of priority. -/
def busWrite (addr : Word) (data : Byte) (s : State) : State :=
  if cartClaimsWrite addr s then s
  else if addr.toNat ≤ 0x1FFF then s.setRam (s.ram.write (ramIndex addr) data)
  else if addr.toNat ≤ 0x3FFF then ppuRegWrite (addr &&& 0x0007) data s
  else s

/-- The byte stored behind a CPU address, read without any effect: what every Bus read of it returns; none for a
PPU register, which has no storage here (R260). -/
def peek (addr : Word) (s : State) : Option Byte :=
  match cartCpuRead addr s with
  | some v => some v
  | none =>
    if addr.toNat ≤ 0x1FFF then some (s.ram.read (ramIndex addr))
    else if addr.toNat ≤ 0x3FFF then none
    else some s.params.unmappedReadValue

/-- `MemRead(a)`: every CPU read is a Bus read with `readOnly = false` (spec/00_scope.md R7, R47). -/
def memRead (addr : Word) (s : State) : Byte × State := busRead addr false s

/-- `MemWrite(a, v)` (spec/00_scope.md R7). -/
def memWrite (addr : Word) (v : Byte) (s : State) : State := busWrite addr v s

/-- Two byte reads at the given addresses, low byte first, assembled to a word (R63). -/
def memReadPair (loAddr hiAddr : Word) (s : State) : Word × State :=
  let l := memRead loAddr s
  let h := memRead hiAddr l.2
  (word16 h.1 l.1, h.2)

/-- `Next()`: the byte at PC, and PC advanced (spec/40_cpu_cycle_and_addressing.md section 2). -/
def nextByte (s : State) : Byte × State :=
  let r := memRead s.pc s
  (r.1, r.2.setPc (s.pc + 1))

/-! ## Stack (spec/00_scope.md R7, spec/10_state.md R11) -/

/-- The address of the stack slot SP points at (R11, decision D4). -/
def stackSlot (sp : Byte) : Word := 0x0100 + zext16 sp

/-- `Push(v)`: write at the slot, then decrement SP modulo 256. -/
def push (v : Byte) (s : State) : State := (memWrite (stackSlot s.sp) v s).setSp (s.sp - 1)

/-- `Pull()`: increment SP modulo 256, then read at the slot. -/
def pull (s : State) : Byte × State := memRead (stackSlot (s.sp + 1)) (s.setSp (s.sp + 1))

/-- Pushes a return address, high byte first (R63). -/
def pushWord (w : Word) (s : State) : State := push (loByte w) (push (hiByte w) s)

/-- Pulls a return address, low byte first (R63). -/
def pullWord (s : State) : Word × State :=
  let l := pull s
  let h := pull l.2
  (word16 h.1 l.1, h.2)

/-! ## Vectors, taking an interrupt, returning from one (spec/60_exceptions.md R246 to R252) -/

/-- The low-byte address of the NMI vector (R62, R248, decision D3). -/
def nmiVector : Word := 0xFFFA
/-- The low-byte address of the RESET vector. -/
def resetVector : Word := 0xFFFC
/-- The low-byte address of the vector of IRQ and BRK. -/
def irqVector : Word := 0xFFFE

/-- The 16-bit address stored at a vector, low byte read first (R248). -/
def readVector (vector : Word) (s : State) : Word × State := memReadPair vector (vector + 1) s

/-- Entry through a vector, shared by BRK, `irq()` and `nmi()` (R214, R246, R247, R251): push the resume address and
the status byte, set I if the entry sets it, load PC from the vector. -/
def takeInterrupt (resume : Word) (status : Byte) (setsI : Bool) (vector : Word) (s : State) : State :=
  let s := push status (pushWord resume s)
  let s := if setsI then s.setFlag .i true else s
  let r := readVector vector s
  r.2.setPc r.1

/-- RTI's return (R213, R252): pull P, then PC. -/
def returnFromInterrupt (s : State) : State :=
  let v := pull s
  let r := pullWord (v.2.setP (restoredP v.1))
  r.2.setPc r.1

end Sys2Proof.Machine
end

