-- ==== Sys2Proof/Machine/Operands.lean ====
section
/-! DEFINITION. The twelve addressing modes, the data fetch, and the shapes that the instruction meanings share. -/

namespace Sys2Proof.Machine

/-! ## Addressing modes (spec/40_cpu_cycle_and_addressing.md R105 to R116)

They run after the instruction's bytes have been fetched, with PC at the next sequential instruction (R118). Each
answers the page-cross flag `a` of R102 and the state with `addr_abs`, `addr_rel` or `fetched` written. -/

/-- Adds an index to a base address modulo 65536; the flag says whether the high byte changed (R112, R113, R116). -/
def indexed (base : Word) (index : Byte) (s : State) : Bool × State :=
  let ea := base + zext16 index
  (hiByte ea ≠ hiByte base, s.setAddrAbs ea)

/-- A 16-bit pointer in the zero page; its high byte's address wraps inside the page (R115, R116). -/
def zeroPagePointer (z : Byte) (s : State) : Word × State :=
  memReadPair (zext16 z) (zext16 (z + 1)) s

/-- The address of the high byte of an indirect-jump pointer: the start of the same page when the pointer's low byte
is 0xFF (R114). -/
def indirectHighAddr (ptr : Word) : Word := if loByte ptr = 0xFF then ptr &&& 0xFF00 else ptr + 1

/-- `AddrMode(d.mode)` (R100, R105 to R116). -/
def addrMode (o : Operand) (s : State) : Bool × State :=
  match o with
  | .imp => (false, s.setFetched s.a)
  | .imm _ => (false, s.setAddrAbs (s.pc - 1))
  | .zp0 z => (false, s.setAddrAbs (zext16 z))
  | .zpx z => (false, s.setAddrAbs (zext16 (z + s.x)))
  | .zpy z => (false, s.setAddrAbs (zext16 (z + s.y)))
  | .rel d => (false, s.setAddrRel (sext16 d))
  | .abs w => (false, s.setAddrAbs w)
  | .abx w => indexed w s.x s
  | .aby w => indexed w s.y s
  | .ind ptr =>
    let r := memReadPair ptr (indirectHighAddr ptr) s
    (false, r.2.setAddrAbs r.1)
  | .izx z =>
    let r := zeroPagePointer (z + s.x) s
    (false, r.2.setAddrAbs r.1)
  | .izy z =>
    let r := zeroPagePointer z s
    indexed r.1 s.y r.2

/-- `Operand()` (R117), run after `addrMode`: the data byte, also left in `fetched`. In implied mode `fetched` already
holds A. The immediate byte was read when the instruction's bytes were fetched, so it is not read again (R71). -/
def operandByte (o : Operand) (s : State) : Byte × State :=
  match o with
  | .imp => (s.fetched, s)
  | .imm v => (v, s.setFetched v)
  | .zp0 _ | .zpx _ | .zpy _ | .rel _ | .abs _ | .abx _ | .aby _ | .ind _ | .izx _ | .izy _ =>
    let r := memRead s.addrAbs s
    (r.1, r.2.setFetched r.1)

/-- `Writeback(r)`: to A in implied mode, else to the byte at `addr_abs` (spec/44_shift_rotate.md). -/
def writeback (o : Operand) (r : Byte) (s : State) : State :=
  match o with
  | .imp => s.setA r
  | .imm _ | .zp0 _ | .zpx _ | .zpy _ | .rel _ | .abs _ | .abx _ | .aby _ | .ind _ | .izx _ | .izy _ =>
    memWrite s.addrAbs r s

/-! ## Shapes of instructions -/

/-- Assigns `cycles <- d.base + (a & b) + e` (R100, R102, R103). -/
def charge (i : Instr) (a b : Bool) (e : Byte) (s : State) : State :=
  s.setCycles (i.baseCycles + (if a && b then 1 else 0) + e)

/-- An instruction that reads one data byte and acts on registers; `b` says whether it pays for a page cross. -/
def readOp (i : Instr) (o : Operand) (b : Bool) (act : Byte → State → State) (s : State) : Result :=
  let am := addrMode o s
  let m := operandByte o am.2
  .next (charge i am.1 b 0 (act m.1 m.2))

/-- An instruction that stores a register's byte at `addr_abs`; it makes no data read and returns `b = 0` (R133). -/
def storeOp (i : Instr) (o : Operand) (v : Byte) (s : State) : Result :=
  let am := addrMode o s
  .next (charge i am.1 false 0 (memWrite am.2.addrAbs v am.2))

/-- An instruction that reads a byte, computes from it and writes the result back; `b = 0`. -/
def modifyOp (i : Instr) (o : Operand) (act : Byte → State → Byte × State) (s : State) : Result :=
  let am := addrMode o s
  let m := operandByte o am.2
  let r := act m.1 m.2
  .next (charge i am.1 false 0 (writeback o r.1 r.2))

/-- An instruction of implied mode with no data operand; `b = 0`. -/
def impliedOp (i : Instr) (act : State → State) (s : State) : Result :=
  let am := addrMode .imp s
  .next (charge i am.1 false 0 (act am.2))

/-- An instruction that acts on the address its mode resolved; `b = 0`. -/
def addressOp (i : Instr) (o : Operand) (act : Word → State → State) (s : State) : Result :=
  let am := addrMode o s
  .next (charge i am.1 false 0 (act am.2.addrAbs am.2))

/-- The extra cycles `e` of a branch taken from the next sequential address `pc` to `target` (R103, R190). -/
def branchCycles (pc target : Word) (s : State) : Byte :=
  if s.params.branchExtraCycles then (if hiByte target ≠ hiByte pc then 2 else 1) else 0

/-- `Branch(cond)` (R190). -/
def branchOp (i : Instr) (d : Byte) (cond : State → Bool) (s : State) : Result :=
  let am := addrMode (.rel d) s
  let s := am.2
  if cond s then
    let target := s.pc + s.addrRel
    .next (charge i am.1 false (branchCycles s.pc target s) ((s.setAddrAbs target).setPc target))
  else .next (charge i am.1 false 0 s)

end Sys2Proof.Machine
end

