-- ==== Sys2Proof/Machine/Arithmetic.lean ====
section
/-! DEFINITION. Arithmetic instructions (spec/42_arithmetic.md). -/

namespace Sys2Proof.Machine

/-- ADC: A plus operand plus C; C, V, Z, N; b = 1 (R140). -/
def execAdc (o : Operand) (s : State) : Result :=
  readOp (.adc o) o true addToA s

/-- SBC: ADC of the complemented operand; b = 1 (R141). -/
def execSbc (o : Operand) (s : State) : Result :=
  readOp (.sbc o) o true subFromA s

/-- INC: the memory byte plus 1; Z, N (R142). -/
def execInc (o : Operand) (s : State) : Result :=
  modifyOp (.inc o) o increment s

/-- DEC: the memory byte minus 1; Z, N (R143). -/
def execDec (o : Operand) (s : State) : Result :=
  modifyOp (.dec o) o decrement s

/-- INX (R144). -/
def execInx (s : State) : Result :=
  impliedOp .inx (fun s => (s.setX (s.x + 1)).setZN (s.x + 1)) s

/-- INY (R145). -/
def execIny (s : State) : Result :=
  impliedOp .iny (fun s => (s.setY (s.y + 1)).setZN (s.y + 1)) s

/-- DEX (R146). -/
def execDex (s : State) : Result :=
  impliedOp .dex (fun s => (s.setX (s.x - 1)).setZN (s.x - 1)) s

/-- DEY (R147). -/
def execDey (s : State) : Result :=
  impliedOp .dey (fun s => (s.setY (s.y - 1)).setZN (s.y - 1)) s

end Sys2Proof.Machine
end

