-- ==== Sys2Proof/Machine/Branch.lean ====
section
/-! DEFINITION. Conditional branches (spec/46_branch.md). -/

namespace Sys2Proof.Machine

/-- BCC: `Branch(P.C = 0)` (R191). -/
def execBcc (d : Byte) (s : State) : Result :=
  branchOp (.bcc d) d (fun s => !s.flag .c) s

/-- BCS: `Branch(P.C = 1)` (R192). -/
def execBcs (d : Byte) (s : State) : Result :=
  branchOp (.bcs d) d (fun s => s.flag .c) s

/-- BEQ: `Branch(P.Z = 1)` (R193). -/
def execBeq (d : Byte) (s : State) : Result :=
  branchOp (.beq d) d (fun s => s.flag .z) s

/-- BMI: `Branch(P.N = 1)` (R194). -/
def execBmi (d : Byte) (s : State) : Result :=
  branchOp (.bmi d) d (fun s => s.flag .n) s

/-- BNE: `Branch(P.Z = 0)` (R195). -/
def execBne (d : Byte) (s : State) : Result :=
  branchOp (.bne d) d (fun s => !s.flag .z) s

/-- BPL: `Branch(P.N = 0)` (R196). -/
def execBpl (d : Byte) (s : State) : Result :=
  branchOp (.bpl d) d (fun s => !s.flag .n) s

/-- BVC: `Branch(P.V = 0)` (R197). -/
def execBvc (d : Byte) (s : State) : Result :=
  branchOp (.bvc d) d (fun s => !s.flag .v) s

/-- BVS: `Branch(P.V = 1)` (R198). -/
def execBvs (d : Byte) (s : State) : Result :=
  branchOp (.bvs d) d (fun s => s.flag .v) s

end Sys2Proof.Machine
end

