-- ==== Sys2Proof/Machine/Compare.lean ====
section
/-! DEFINITION. Compare instructions (spec/45_compare.md). -/

namespace Sys2Proof.Machine

/-- CMP: `Compare(A, Operand())`, b = 1 (R180). -/
def execCmp (o : Operand) (s : State) : Result :=
  readOp (.cmp o) o true (fun m s => compareWith s.a m s) s

/-- CPX: `Compare(X, Operand())`, b = 0 (R181). -/
def execCpx (o : Operand) (s : State) : Result :=
  readOp (.cpx o) o false (fun m s => compareWith s.x m s) s

/-- CPY: `Compare(Y, Operand())`, b = 0 (R182). -/
def execCpy (o : Operand) (s : State) : Result :=
  readOp (.cpy o) o false (fun m s => compareWith s.y m s) s

end Sys2Proof.Machine
end

