-- ==== Sys2Proof/Machine/FlagTransfer.lean ====
section
/-! DEFINITION. Flag instructions, register transfers, NOP and the illegal-opcode operation (spec/49_flags_transfer_misc.md). -/

namespace Sys2Proof.Machine

/-- CLC: `P.C <- 0` (R220). -/
def execClc (s : State) : Result :=
  impliedOp .clc (fun s => s.setFlag .c false) s

/-- CLD: `P.D <- 0` (R221). -/
def execCld (s : State) : Result :=
  impliedOp .cld (fun s => s.setFlag .d false) s

/-- CLI: `P.I <- 0` (R222). -/
def execCli (s : State) : Result :=
  impliedOp .cli (fun s => s.setFlag .i false) s

/-- CLV: `P.V <- 0` (R223). -/
def execClv (s : State) : Result :=
  impliedOp .clv (fun s => s.setFlag .v false) s

/-- SEC: `P.C <- 1` (R224). -/
def execSec (s : State) : Result :=
  impliedOp .sec (fun s => s.setFlag .c true) s

/-- SED: `P.D <- 1` (R225). -/
def execSed (s : State) : Result :=
  impliedOp .sed (fun s => s.setFlag .d true) s

/-- SEI: `P.I <- 1` (R226). -/
def execSei (s : State) : Result :=
  impliedOp .sei (fun s => s.setFlag .i true) s

/-- TAX: `X <- A; SetZN(X)` (R227). -/
def execTax (s : State) : Result :=
  impliedOp .tax (fun s => (s.setX s.a).setZN s.a) s

/-- TAY: `Y <- A; SetZN(Y)` (R228). -/
def execTay (s : State) : Result :=
  impliedOp .tay (fun s => (s.setY s.a).setZN s.a) s

/-- TSX: `X <- SP; SetZN(X)` (R229). -/
def execTsx (s : State) : Result :=
  impliedOp .tsx (fun s => (s.setX s.sp).setZN s.sp) s

/-- TXA: `A <- X; SetZN(A)` (R230). -/
def execTxa (s : State) : Result :=
  impliedOp .txa (fun s => (s.setA s.x).setZN s.x) s

/-- TXS: `SP <- X`; no flag (R231). -/
def execTxs (s : State) : Result :=
  impliedOp .txs (fun s => s.setSp s.x) s

/-- TYA: `A <- Y; SetZN(A)` (R232). -/
def execTya (s : State) : Result :=
  impliedOp .tya (fun s => (s.setA s.y).setZN s.y) s

/-- NOP: nothing but the fetch and the cycles (R233). -/
def execNop (s : State) : Result :=
  impliedOp .nop (fun s => s) s

/-- XXX, the operation of every illegal opcode: report the byte and the address it was fetched from (R234, R241). -/
def execXxx (op : Byte) (s : State) : Result :=
  impliedOp (.xxx op) (fun s => s.report (.illegalOpcode op (s.pc - 1))) s

end Sys2Proof.Machine
end

