-- ==== Sys2Proof/Machine/Jump.lean ====
section
/-! DEFINITION. Jumps, subroutine call and return, interrupt return, software interrupt (spec/48_jump_subroutine_interrupt_return.md). -/

namespace Sys2Proof.Machine

/-- JMP: `PC <- addr_abs` (R210). -/
def execJmp (o : Operand) (s : State) : Result :=
  addressOp (.jmp o) o (fun t s => s.setPc t) s

/-- JSR: push the address of its own last byte, `PC <- addr_abs` (R211). -/
def execJsr (w : Word) (s : State) : Result :=
  addressOp (.jsr w) (.abs w) (fun t s => (pushWord (s.pc - 1) s).setPc t) s

/-- RTS: pull an address, PC is one more (R212). -/
def execRts (s : State) : Result :=
  impliedOp .rts (fun s => let r := pullWord s; r.2.setPc (r.1 + 1)) s

/-- RTI: pull P, then PC (R213). -/
def execRti (s : State) : Result :=
  impliedOp .rti returnFromInterrupt s

/-- BRK: entry through the IRQ vector; the resume address skips the byte after the BRK, and the pushed status has
Break set (R214). -/
def execBrk (s : State) : Result :=
  impliedOp .brk (fun s => takeInterrupt (s.pc + 1) s.pushedP true irqVector s) s

end Sys2Proof.Machine
end

