-- ==== Sys2Proof/Machine/LoadStore.lean ====
section
/-! DEFINITION. Load and store instructions (spec/41_load_store.md). -/

namespace Sys2Proof.Machine

/-- LDA: `A <- Operand(); SetZN(A)`, b = 1 (R130). -/
def execLda (o : Operand) (s : State) : Result :=
  readOp (.lda o) o true (fun m s => (s.setA m).setZN m) s

/-- LDX: `X <- Operand(); SetZN(X)`, b = 1 (R131). -/
def execLdx (o : Operand) (s : State) : Result :=
  readOp (.ldx o) o true (fun m s => (s.setX m).setZN m) s

/-- LDY: `Y <- Operand(); SetZN(Y)`, b = 1 (R132). -/
def execLdy (o : Operand) (s : State) : Result :=
  readOp (.ldy o) o true (fun m s => (s.setY m).setZN m) s

/-- STA: `MemWrite(addr_abs, A)`, b = 0, no flag (R133). -/
def execSta (o : Operand) (s : State) : Result :=
  storeOp (.sta o) o s.a s

/-- STX: `MemWrite(addr_abs, X)`, b = 0, no flag (R134). -/
def execStx (o : Operand) (s : State) : Result :=
  storeOp (.stx o) o s.x s

/-- STY: `MemWrite(addr_abs, Y)`, b = 0, no flag (R135). -/
def execSty (o : Operand) (s : State) : Result :=
  storeOp (.sty o) o s.y s

end Sys2Proof.Machine
end

