-- ==== Sys2Proof/Machine/Logical.lean ====
section
/-! DEFINITION. Logical instructions (spec/43_logical.md). -/

namespace Sys2Proof.Machine

/-- AND: `A <- A & Operand(); SetZN(A)`, b = 1 (R160). -/
def execAnd (o : Operand) (s : State) : Result :=
  readOp (.and o) o true (fun m s => (s.setA (s.a &&& m)).setZN (s.a &&& m)) s

/-- ORA: `A <- A | Operand(); SetZN(A)`, b = 1 (R161). -/
def execOra (o : Operand) (s : State) : Result :=
  readOp (.ora o) o true (fun m s => (s.setA (s.a ||| m)).setZN (s.a ||| m)) s

/-- EOR: `A <- A ^ Operand(); SetZN(A)`, b = 1 (R162). -/
def execEor (o : Operand) (s : State) : Result :=
  readOp (.eor o) o true (fun m s => (s.setA (s.a ^^^ m)).setZN (s.a ^^^ m)) s

/-- BIT: Z from A and the byte, N and V from the byte; b = 0 (R163). -/
def execBit (o : Operand) (s : State) : Result :=
  readOp (.bit o) o false bitTest s

end Sys2Proof.Machine
end

