-- ==== Sys2Proof/Machine/Shift.lean ====
section
/-! DEFINITION. Shift and rotate instructions (spec/44_shift_rotate.md). -/

namespace Sys2Proof.Machine

/-- ASL, on A or on memory (R170). -/
def execAsl (o : Operand) (s : State) : Result :=
  modifyOp (.asl o) o shiftLeft s

/-- LSR, on A or on memory (R171). -/
def execLsr (o : Operand) (s : State) : Result :=
  modifyOp (.lsr o) o shiftRight s

/-- ROL, on A or on memory (R172). -/
def execRol (o : Operand) (s : State) : Result :=
  modifyOp (.rol o) o rotateLeft s

/-- ROR, on A or on memory (R173). -/
def execRor (o : Operand) (s : State) : Result :=
  modifyOp (.ror o) o rotateRight s

end Sys2Proof.Machine
end

