-- ==== Sys2Proof/Machine/Stack.lean ====
section
/-! DEFINITION. Stack push and pull (spec/47_stack.md). -/

namespace Sys2Proof.Machine

/-- PHA: `Push(A)` (R200). -/
def execPha (s : State) : Result :=
  impliedOp .pha (fun s => push s.a s) s

/-- PHP: `Push(P | 0x30)` (R201). -/
def execPhp (s : State) : Result :=
  impliedOp .php (fun s => push s.pushedP s) s

/-- PLA: `A <- Pull(); SetZN(A)` (R202). -/
def execPla (s : State) : Result :=
  impliedOp .pla (fun s => let r := pull s; (r.2.setA r.1).setZN r.1) s

/-- PLP: `P <- (Pull() & 0xCF) | 0x20` (R203). -/
def execPlp (s : State) : Result :=
  impliedOp .plp (fun s => let r := pull s; r.2.setP (restoredP r.1)) s

end Sys2Proof.Machine
end

