-- ==== Sys2Proof/Machine/Fetch.lean ====
section
/-! DEFINITION. Fetching an instruction: the opcode byte, then the operand bytes its mode takes. -/

namespace Sys2Proof.Machine

/-- The fetch of R100: read the opcode at PC, put it in `opcode`, look up its descriptor, and read the operand bytes
of its mode in ascending address order, PC advancing past each byte (R12, R71, R82, R83). -/
def fetch (s : State) : Instr × State :=
  let o := nextByte s
  let op := o.1
  let s := o.2.setOpcode op
  match (descriptor op).mode.format with
  | .f1 => (instrOf op 0 0, s)
  | .f2 =>
    let l := nextByte s
    (instrOf op l.1 0, l.2)
  | .f3 =>
    let l := nextByte s
    let h := nextByte l.2
    (instrOf op l.1 h.1, h.2)

end Sys2Proof.Machine
end

