-- ==== Sys2Proof/Machine/Clock.lean ====
section
/-! DEFINITION. The clocked parts: the CPU tick, the PPU tick, the master clock divider, reset, and the interrupt inputs. -/

namespace Sys2Proof.Machine

/-- The decrement that ends every CPU tick (R100). -/
def countDown (s : State) : State := s.setCycles (s.cycles - 1)

/-- Applies `f` to a next state and passes a stop on. -/
def onNext (f : State → State) : Result → Result
  | .next s => .next (f s)
  | .fault r => .fault r
  | .refused r => .refused r

/-- `cpu_clock()` (R100): with no cycles left, fetch and execute one whole instruction (R119); then count down. -/
def cpuClock (s : State) : Result :=
  if s.cycles = 0 then
    let f := fetch s
    onNext countDown (exec f.1 f.2)
  else .next (countDown s)

/-- `ppu_clock()` (R258). -/
def ppuClock (s : State) : State :=
  if s.cycle + 1 = 341 then
    if s.scanline + 1 = 261 then (s.setPpuPosition (-1) 0).setFrameComplete true
    else s.setPpuPosition (s.scanline + 1) 0
  else s.setPpuPosition s.scanline (s.cycle + 1)

/-- `Bus.clock()` (R256): count, tick the PPU, and tick the CPU when the incremented counter is a multiple of 3. -/
def busClock (s : State) : Result :=
  let s := ppuClock (s.setSysclk (s.sysclk + 1))
  if s.sysclk % 3 = 0 then cpuClock s else .next s

/-- `cpu_reset()` (R281). -/
def cpuReset (s : State) : State :=
  let r := readVector resetVector s
  let s := ((((r.2.setPc r.1).setA 0).setX 0).setY 0).setSp 0xFD
  let s := ((((s.setP 0x24).setFetched 0).setAddrAbs 0).setAddrRel 0).setOpcode 0
  s.setCycles s.params.resetCycles

/-- `Bus.reset()` (R280): the CPU's reset, and the system clock counter to 0; nothing else changes (R33). -/
def busReset (s : State) : State := ((cpuReset s).setSysclk 0).setPhase .running

/-- `irq()` (R246): ignored, and lost, when I is set (R26). -/
def irq (s : State) : State :=
  if s.flag .i then s
  else (takeInterrupt s.pc s.interruptP true irqVector s).setCycles s.params.irqCycles

/-- `nmi()` (R247): always honoured. -/
def nmi (s : State) : State :=
  (takeInterrupt s.pc s.interruptP s.params.nmiSetsI nmiVector s).setCycles s.params.nmiCycles

end Sys2Proof.Machine
end

