-- ==== Sys2Proof/Machine/HostPort.lean ====
section
/-! DEFINITION. The rest of the host's interface: loading a cartridge, power-on, the PPU-side port, and one host call. -/

namespace Sys2Proof.Machine

/-! ## Loading and power-on (spec/20_memory.md R54, spec/10_state.md R31) -/

/-- The bank count a bundle's number stands for; only 1 and 2 are well-formed (R54). -/
def prgBanksOf : Nat → Option PrgBanks
  | 1 => some .one
  | 2 => some .two
  | _ => none

/-- The number of banks. -/
def PrgBanks.count : PrgBanks → Nat
  | .one => 1
  | .two => 2

/-- `Cartridge::load(bundle)` (R54, decision D17): none is `LoadError`, for a malformed bundle or an unknown mapper id. -/
def loadCartridge (b : Bundle) : Option Cartridge :=
  match prgBanksOf b.prgBanks with
  | none => none
  | some banks =>
    if b.mapperId = 0 ∧ b.chrBanks = 1 ∧ b.prg.length = 16384 * b.prgBanks ∧ b.chr.length = 8192 * b.chrBanks then
      some { prg := Memory.ofBytes b.prg, chr := Memory.ofBytes b.chr, mapperId := b.mapperId, prgBanks := banks,
             chrBanks := b.chrBanks, mirror := b.mirror, valid := true }
    else none

/-- The PPU's launch contents `VRAM_INIT` (spec/00_scope.md R5). -/
structure VramInit where
  nametable0 : List Byte
  nametable1 : List Byte
  palette : List Byte
  deriving DecidableEq, Repr

/-- The machine at construction (R31), before its first `Bus.reset()`: the CPU registers are unspecified there, and
no call that reads them is allowed before that reset (R284), so they hold reset's values (log entry 4). A machine
constructed with a cartridge has had its load. -/
def State.construct (params : Params) (cart : Option Cartridge) (ramInit : List Byte) (vramInit : VramInit) : State :=
  { State.reset with
    cycles := 0
    ram := Memory.ofBytes (ramInit.take 2048)
    nametable0 := Memory.ofBytes (vramInit.nametable0.take 1024)
    nametable1 := Memory.ofBytes (vramInit.nametable1.take 1024)
    palette := Memory.ofBytes (vramInit.palette.take 32)
    cart := cart
    params := params
    phase := if cart.isSome then .built else .loading }

/-! ## PPU-side port (spec/20_memory.md R57 to R61) -/

/-- `NtIndex(a)` (R59): whether the address uses physical nametable 1. -/
def usesNametable1 (mirror : Mirror) (a : Word) : Bool :=
  match mirror with
  | .vertical => a.getLsbD 10
  | .horizontal => a.getLsbD 11
  | .oneScreenLo => false
  | .oneScreenHi => true

/-- The index within a nametable: `a & 0x03FF` (R57). -/
def nametableIndex (a : Word) : Nat := (a &&& 0x03FF).toNat

/-- `PalIndex(a)` (R60): `a & 0x1F`, with 0x10, 0x14, 0x18, 0x1C folded onto 0x00, 0x04, 0x08, 0x0C. -/
def paletteIndex (a : Word) : Nat :=
  let i := (a &&& 0x001F).toNat
  if i = 0x10 ∨ i = 0x14 ∨ i = 0x18 ∨ i = 0x1C then i - 0x10 else i

/-- The mapper's claim of a PPU-side read (R61). -/
def cartPpuRead (c : Cartridge) (a : Word) : Option Byte :=
  match cartMapper c with
  | none => none
  | some m =>
    match ppuMapRead m a with
    | none => none
    | some k => some (c.chr.read k)

/-- The mapper's claim of a PPU-side write (R61). -/
def cartClaimsPpuWrite (c : Cartridge) (a : Word) : Bool :=
  match cartMapper c with
  | none => false
  | some m => (ppuMapWrite m a).isSome

/-- `PpuRead(addr)` with cartridge `c` inserted (R57). -/
def ppuRead (c : Cartridge) (addr : Word) (s : State) : Byte :=
  let a := addr &&& 0x3FFF
  match cartPpuRead c a with
  | some v => v
  | none =>
    if a.toNat ≤ 0x1FFF then s.params.unmappedReadValue
    else if a.toNat ≤ 0x3EFF then
      if usesNametable1 c.mirror a then s.nametable1.read (nametableIndex a) else s.nametable0.read (nametableIndex a)
    else s.palette.read (paletteIndex a)

/-- `PpuWrite(addr, data)` with cartridge `c` inserted (R58). -/
def ppuWrite (c : Cartridge) (addr : Word) (data : Byte) (s : State) : State :=
  let a := addr &&& 0x3FFF
  if cartClaimsPpuWrite c a then s
  else if a.toNat ≤ 0x1FFF then s
  else if a.toNat ≤ 0x3EFF then
    if usesNametable1 c.mirror a then s.setNametable1 (s.nametable1.write (nametableIndex a) data)
    else s.setNametable0 (s.nametable0.write (nametableIndex a) data)
  else s.setPalette (s.palette.write (paletteIndex a) data)

/-! ## One call of the host (spec/00_scope.md R8) -/

/-- Refuses a call that needs the first `Bus.reset()` to have been made (R284, decision D35). -/
def afterReset (s : State) (r : Result) : Result := if s.phase = .running then r else .refused .notReset

/-- The phase after a served call: no load is allowed any more (spec/00_scope.md R8: load comes "before any of them"). -/
def Phase.next : Phase → Phase
  | .loading => .built
  | .built => .built
  | .running => .running

/-- The outcome of a call served before or after the first reset: `t`, with no load allowed any more. -/
def served (t : State) : Result := .next (t.setPhase t.phase.next)

/-- One operation of the external interface, run to completion (R8). -/
def hostCall (call : HostCall) (s : State) : Result :=
  match call with
  | .clock => afterReset s (busClock s)
  | .reset => .next (busReset s)
  | .busRead addr readOnly =>
    let r := busRead addr readOnly s
    served (r.2.setReply (some r.1))
  | .busWrite addr data => served (busWrite addr data s)
  | .irq => afterReset s (.next (irq s))
  | .nmi => afterReset s (.next (nmi s))
  | .clearFrameComplete => served (s.setFrameComplete false)
  | .ppuRead addr =>
    match s.cart with
    | none => .refused .noCartridge
    | some c => served (s.setReply (some (ppuRead c addr s)))
  | .ppuWrite addr data =>
    match s.cart with
    | none => .refused .noCartridge
    | some c => served (ppuWrite c addr data s)
  | .load bundle =>
    if s.phase = .loading then
      match loadCartridge bundle with
      | none => .fault .loadError
      | some c => served (s.setCart (some c))
    else .refused .loadNotFirst

/-! ## Placing an instruction from outside -/

/-- Whether a CPU address has a byte of storage behind it: RAM or program ROM. -/
def hasStorage (addr : Word) (s : State) : Bool := (cartReadOffset addr s).isSome || addr.toNat ≤ 0x1FFF

/-- Puts a byte into the storage behind a CPU address, as a load from outside the machine does, program ROM included. -/
def placeByte (addr : Word) (v : Byte) (s : State) : State :=
  match cartReadOffset addr s with
  | some (c, k) => s.setCart (some { c with prg := c.prg.write k v })
  | none => if addr.toNat ≤ 0x1FFF then s.setRam (s.ram.write (ramIndex addr) v) else s

/-- Places bytes at rising addresses. -/
def placeBytes (addr : Word) : List Byte → State → State
  | [], s => s
  | b :: rest, s => placeBytes (addr + 1) rest (placeByte addr b s)

/-- Where the next instruction can be placed: at PC, if the three bytes from PC have storage, else at 0x0000. -/
def placeAddr (s : State) : Word :=
  if hasStorage s.pc s && hasStorage (s.pc + 1) s && hasStorage (s.pc + 2) s then s.pc else 0x0000

/-- Makes the next step a CPU tick that fetches: no host call pending, no cycles left, and the system clock counter
one short of a multiple of 3. -/
def readyToFetch (s : State) : State :=
  (((s.setDriver []).setPhase .running).setCycles 0).setSysclk (s.sysclk + (2 - s.sysclk % 3))

end Sys2Proof.Machine
end

