-- ==== Sys2Proof/Machine/Step.lean ====
section
/-! DEFINITION. One step of the machine, and placing an instruction for the next step to fetch. -/

namespace Sys2Proof.Machine

/-- One step: the host's next pending call, or `Bus.clock()` when none is pending (spec/00_scope.md R8, log entry 6). -/
def step (s : State) : Host.Outcome State Fault Refusal :=
  match s.driver with
  | [] => hostCall .clock s
  | call :: rest => hostCall call (s.setDriver rest)

/-- The state with an instruction's bytes placed where the next step fetches (log entry 7). -/
def State.withFetchWord (s : State) (nbits w : Nat) : State :=
  placeBytes (placeAddr s) (tableBytes nbits w) ((readyToFetch s).setPc (placeAddr s))

end Sys2Proof.Machine
end

