-- ==== Sys2Proof/Safety.lean ====
section
/-! DEFINITION. What a state must satisfy in every run, and the words in which claims speak of addresses, stored bytes and frames. -/

namespace Sys2Proof.Machine

/-! ## The invariant -/

/-- What `Cartridge::load` guarantees of a cartridge (spec/20_memory.md R54): the arrays fill their banks, the mapper is
000, there is one pattern bank, and the validity flag is set. -/
structure Cartridge.Wf (c : Cartridge) : Prop where
  prg : Memory.fits c.prg (16384 * c.prgBanks.count)
  chr : Memory.fits c.chr 8192
  mapperId : c.mapperId = 0
  chrBanks : c.chrBanks = 1
  valid : c.valid = true

/-- The largest value `cycles` can hold (spec/10_state.md R17). -/
def cyclesBound (p : Params) : Nat :=
  max 7 (max p.resetCycles.toNat (max p.irqCycles.toNat p.nmiCycles.toNat))

/-- What holds between any two host operations (spec/10_state.md R14, R17, R19, R20, R22). -/
structure State.Inv (s : State) : Prop where
  /-- RAM is a canonical array of 2048 bytes (R19) -/
  ram : Memory.fits s.ram 2048
  /-- the nametables are canonical arrays of 1024 bytes (R20) -/
  nametable0 : Memory.fits s.nametable0 1024
  nametable1 : Memory.fits s.nametable1 1024
  /-- the palette is a canonical array of 32 bytes (R20) -/
  palette : Memory.fits s.palette 32
  /-- an inserted cartridge is as load made it (R22) -/
  cart : ∀ c, s.cart = some c → c.Wf
  /-- while a load is still allowed there is no cartridge (R54, R284) -/
  noCartYet : s.phase = .loading → s.cart = none
  /-- scanline is in -1..260 (R20) -/
  scanlineLow : -1 ≤ s.scanline
  scanlineHigh : s.scanline ≤ 260
  /-- cycle is in 0..340 (R20) -/
  cycle : s.cycle ≤ 340
  /-- P.U = 1 after the first reset (R14) -/
  unusedSet : s.phase = .running → s.flag .u = true
  /-- P.B = 0 after the first reset (R14) -/
  breakClear : s.phase = .running → s.flag .b = false
  /-- the bound of `cycles` (R17) -/
  cycles : s.cycles.toNat ≤ cyclesBound s.params

/-! ## Runs -/

/-- The first reset has been made and the host does nothing but call `Bus.clock()`. -/
def State.Clocked (s : State) : Prop := s.phase = .running ∧ s.driver = []

/-- The machine goes from `s` to `t` in `n` steps without stopping. -/
def RunsTo (s : State) (n : Nat) (t : State) : Prop := Sys2Proof.core.run n s = .next t

/-- The position of the PPU within a frame, counted in ticks from `(-1, 0)`: 0 to 89341 when in range (R258). -/
def ppuPosition (s : State) : Int := (s.scanline + 1) * 341 + s.cycle

/-! ## Addresses and stored bytes -/

/-- Two addresses of the RAM window that select the same RAM byte: they are congruent modulo 0x0800 (R43). -/
def Mirrors (a b : Word) : Prop := a.toNat < 0x2000 ∧ b.toNat < 0x2000 ∧ a.toNat % 0x800 = b.toNat % 0x800

/-- A byte of the PPU's storage (R20). -/
inductive PpuByte where
  | nametable0 (k : Nat)
  | nametable1 (k : Nat)
  | palette (k : Nat)
  deriving DecidableEq, Repr

/-- The byte a PPU-side address selects; none in pattern ROM (R57 to R60). -/
def ppuByte (mirror : Mirror) (addr : Word) : Option PpuByte :=
  let a := addr.toNat % 0x4000
  if a < 0x2000 then none
  else if a < 0x3F00 then
    some (if usesNametable1 mirror addr then .nametable1 (a % 0x400) else .nametable0 (a % 0x400))
  else some (.palette (paletteIndex addr))

/-- What a byte of the PPU's storage holds. -/
def ppuStored (s : State) : PpuByte → Byte
  | .nametable0 k => s.nametable0.read k
  | .nametable1 k => s.nametable1.read k
  | .palette k => s.palette.read k

/-- Every byte of the CPU address space, program ROM included, reads as before. -/
def SameMemory (s t : State) : Prop := ∀ a, peek a t = peek a s

/-- From `s` to `t` byte `v` was stored at `ea` and nothing else: every address that is no mirror of `ea` reads as
before, and if `ea` is in the RAM window it and its mirrors read `v`. -/
def Stored (ea : Word) (v : Byte) (s t : State) : Prop :=
  (∀ a, ¬ Mirrors ea a → peek a t = peek a s) ∧ ∀ a, Mirrors ea a → peek a t = some v

/-- From `s` to `t` an interrupt frame was pushed, high byte of the resume address first, then its low byte, then the
status byte, at three stack slots going down from SP; no other byte changed (R251). -/
structure PushedFrame (resume : Word) (status : Byte) (s t : State) : Prop where
  high : peek (stackSlot s.sp) t = some (hiByte resume)
  low : peek (stackSlot (s.sp - 1)) t = some (loByte resume)
  status : peek (stackSlot (s.sp - 2)) t = some status
  others : ∀ a, ¬ Mirrors (stackSlot s.sp) a → ¬ Mirrors (stackSlot (s.sp - 1)) a → ¬ Mirrors (stackSlot (s.sp - 2)) a →
    peek a t = peek a s
  sp : t.sp = s.sp - 3

/-- `target` is the little-endian address stored at the vector `vector` and the address after it (R248). -/
def VectorHolds (vector target : Word) (s : State) : Prop :=
  peek vector s = some (loByte target) ∧ peek (vector + 1) s = some (hiByte target)

/-- The effective address an operand gives (R105 to R116), as the meanings compute it. -/
def effAddr (o : Operand) (s : State) : Word := (addrMode o s).2.addrAbs

/-- The data byte `Operand()` gives (R117), as the meanings compute it. -/
def dataByte (o : Operand) (s : State) : Byte := (operandByte o (addrMode o s).2).1

/-- The page-cross flag `a` of the addressing mode (R102), as the meanings compute it. -/
def crosses (o : Operand) (s : State) : Bool := (addrMode o s).1

/-- From `s` to `t` a read-modify-write result `r` went to where operand `o` says: to A in the accumulator form, with
memory unchanged, else to the byte at the effective address, with A unchanged. -/
def WroteBack (o : Operand) (r : Byte) (s t : State) : Prop :=
  if o = .imp then t.a = r ∧ SameMemory s t else t.a = s.a ∧ Stored (effAddr o s) r s t

/-! ## Frames -/

/-- The general registers and the stack pointer by name (spec/10_state.md R10, R11). -/
inductive Reg where
  | a | x | y | sp
  deriving DecidableEq, Repr

/-- Reads a register by name. -/
def State.reg (s : State) : Reg → Byte
  | .a => s.a
  | .x => s.x
  | .y => s.y
  | .sp => s.sp

/-- The state that no instruction changes: the system clock counter, the whole PPU, the cartridge, the parameters and
what belongs to the host. -/
structure SameOutside (s t : State) : Prop where
  sysclk : t.sysclk = s.sysclk
  nametable0 : t.nametable0 = s.nametable0
  nametable1 : t.nametable1 = s.nametable1
  palette : t.palette = s.palette
  scanline : t.scanline = s.scanline
  cycle : t.cycle = s.cycle
  frameComplete : t.frameComplete = s.frameComplete
  cart : t.cart = s.cart
  params : t.params = s.params
  phase : t.phase = s.phase
  driver : t.driver = s.driver
  reply : t.reply = s.reply

/-- The frame of an instruction that writes only the registers `rs` and the flags `fs`, besides memory, PC, `cycles` and the
transient fields: every other register and flag is as before, and so are `opcode`, the event sink and all that no
instruction changes. The eight flags are all of P. -/
structure Frame (rs : List Reg) (fs : List Flag) (s t : State) : Prop where
  regs : ∀ r, r ∉ rs → t.reg r = s.reg r
  flags : ∀ f, f ∉ fs → t.flag f = s.flag f
  opcode : t.opcode = s.opcode
  events : t.events = s.events
  outside : SameOutside s t

/-- Z and N say whether `v` is 0 and what its bit 7 is (spec/00_scope.md R7). -/
def ZnOf (v : Byte) (t : State) : Prop := (t.flag .z = true ↔ v = 0) ∧ (t.flag .n = true ↔ 128 ≤ v.toNat)

end Sys2Proof.Machine
end

