-- ==== Sys2Proof/Certificates/Slice0/Obligations.lean ====
section
/-! DEFINITION. The statements for the provers, from the numbered rules of spec/. -/

open Sys2Proof Sys2Proof.Machine

/-! ## Encoding -/

/-- One or two words of each family, written out from the opcode map of R84 and the formats of R80. -/
def Obligations.DecodeSpecWords : Prop :=
  decode [0xA9, 0x80] = .ok (.lda (.imm 0x80), []) ∧ decode [0x9D, 0xFF, 0x00] = .ok (.sta (.abx 0x00FF), []) ∧
  decode [0x71, 0x10] = .ok (.adc (.izy 0x10), []) ∧ decode [0x41, 0xFE] = .ok (.eor (.izx 0xFE), []) ∧
  decode [0x0A] = .ok (.asl .imp, []) ∧ decode [0xCC, 0x34, 0x12] = .ok (.cpy (.abs 0x1234), []) ∧
  decode [0xD0, 0xF9] = .ok (.bne 0xF9, []) ∧ decode [0x28] = .ok (.plp, []) ∧
  decode [0x6C, 0xFF, 0x02] = .ok (.jmp (.ind 0x02FF), []) ∧ decode [0x20, 0x10, 0x80] = .ok (.jsr 0x8010, []) ∧
  decode [0xBA] = .ok (.tsx, []) ∧ decode [0x02] = .ok (.xxx 0x02, [])

/-- Decoding the bytes of a well-formed instruction gives it back, whatever follows (R80, R82, R84). -/
def Obligations.DecodeEncodeRoundTrip : Prop :=
  ∀ (i : Instr) (rest : List Byte), i.wf = true → decode (encode i ++ rest) = .ok (i, rest)

/-- What decodes is well-formed, and encodes to the bytes it was read from. -/
def Obligations.EncodeDecodeRoundTrip : Prop :=
  ∀ (bs : List Byte) (i : Instr) (rest : List Byte), decode bs = .ok (i, rest) → i.wf = true ∧ encode i ++ rest = bs

/-- Decoding is total, and the first byte alone decides the length: one byte more than the mode's operand bytes (R83). -/
def Obligations.FirstByteDecidesLength : Prop :=
  ∀ (op lo hi : Byte) (rest : List Byte), ∃ i,
    decode (op :: lo :: hi :: rest) = .ok (i, (op :: lo :: hi :: rest).drop (1 + i.operand.bytes.length)) ∧
    i.operand.mode = (descriptor op).mode

/-- The 105 illegal bytes, no other and none twice, select the operation XXX, of implied mode and two cycles (R85).
The shared descriptor is the spec's decision D14. -/
def Obligations.IllegalOpcodesShareOneDescriptor : Prop :=
  illegalOpcodes.length = 105 ∧ illegalOpcodes.Nodup ∧
  ∀ op lo hi : Byte,
    (op ∈ illegalOpcodes → instrOf op lo hi = .xxx op ∧ (descriptor op).mode = .imp ∧ (descriptor op).base = 2) ∧
    (op ∉ illegalOpcodes → ∀ b, instrOf op lo hi ≠ .xxx b)

/-- The cycle counts of the timing table of R295 by instruction class and mode, before any page-cross or branch cycle. -/
def Sys2Proof.timingTable (i : Instr) : Option Nat :=
  let read : Mode → Option Nat
    | .imm => some 2
    | .zp0 => some 3
    | .zpx | .zpy | .abs | .abx | .aby => some 4
    | .izx => some 6
    | .izy => some 5
    | .imp | .rel | .ind => none
  let store : Mode → Option Nat
    | .zp0 => some 3
    | .zpx | .zpy | .abs => some 4
    | .abx | .aby => some 5
    | .izx | .izy => some 6
    | .imp | .imm | .rel | .ind => none
  let modify : Mode → Option Nat
    | .imp => some 2
    | .zp0 => some 5
    | .zpx | .abs => some 6
    | .abx => some 7
    | .imm | .zpy | .rel | .aby | .ind | .izx | .izy => none
  match i with
  | .lda o | .ldx o | .ldy o | .adc o | .sbc o | .and o | .ora o | .eor o | .bit o | .cmp o | .cpx o | .cpy o => read o.mode
  | .sta o | .stx o | .sty o => store o.mode
  | .inc o | .dec o | .asl o | .lsr o | .rol o | .ror o => modify o.mode
  | .jmp o => if o.mode = .abs then some 3 else if o.mode = .ind then some 5 else none
  | .jsr _ | .rts | .rti => some 6
  | .brk => some 7
  | .pha | .php => some 3
  | .pla | .plp => some 4
  | .bcc _ | .bcs _ | .beq _ | .bmi _ | .bne _ | .bpl _ | .bvc _ | .bvs _ => some 2
  | .inx | .iny | .dex | .dey | .clc | .cld | .cli | .clv | .sec | .sed | .sei => some 2
  | .tax | .tay | .tsx | .txa | .txs | .tya | .nop | .xxx _ => some 2

/-- The base counts of the opcode map (R84) are those of the timing table (R295), for every well-formed instruction. -/
def Obligations.BaseCyclesMatchTimingTable : Prop :=
  ∀ i : Instr, i.wf = true → timingTable i = some i.baseCycles.toNat

/-! ## The step -/

/-- A step at an instruction boundary on a CPU tick runs the decoded instruction: the counters advance, the instruction's
bytes at PC are consumed (PC past them, the first in `opcode`), the instruction runs, and the tick's decrement ends it
(R100, R256). -/
def Obligations.StepRunsTheDecodedInstruction : Prop :=
  ∀ (s : State) (i : Instr) (op : Byte) (operands : List Byte),
    s.Clocked → s.cycles = 0 → (s.sysclk + 1) % 3 = 0 → decode (op :: operands) = .ok (i, []) →
    (∀ k b, (op :: operands)[k]? = some b → peek (s.pc + BitVec.ofNat 16 k) s = some b) →
    step s = onNext countDown (exec i
      { ppuClock { s with sysclk := s.sysclk + 1 } with
        opcode := op, pc := s.pc + BitVec.ofNat 16 (1 + operands.length) })

/-- Between CPU ticks a master tick changes only the counters; on a CPU tick with cycles left it also takes one off
(R256, R100). -/
def Obligations.CpuAdvancesOnEveryThirdTick : Prop :=
  ∀ s : State, s.Clocked →
    ((s.sysclk + 1) % 3 ≠ 0 → ∃ t, step s = .next t ∧
      t = { s with sysclk := s.sysclk + 1, scanline := t.scanline, cycle := t.cycle, frameComplete := t.frameComplete }) ∧
    ((s.sysclk + 1) % 3 = 0 → s.cycles ≠ 0 → ∃ t, step s = .next t ∧
      t = { s with sysclk := s.sysclk + 1, scanline := t.scanline, cycle := t.cycle, frameComplete := t.frameComplete,
                   cycles := s.cycles - 1 })

/-- One PPU tick on every master tick, whatever the CPU does in it (R258). -/
def Obligations.PpuTickAdvancesTheCounters : Prop :=
  ∀ s : State, s.Clocked → ∃ t, step s = .next t ∧ t.sysclk = s.sysclk + 1 ∧
    (s.cycle ≠ 340 → t.cycle = s.cycle + 1 ∧ t.scanline = s.scanline ∧ t.frameComplete = s.frameComplete) ∧
    (s.cycle = 340 → s.scanline ≠ 260 →
      t.cycle = 0 ∧ t.scanline = s.scanline + 1 ∧ t.frameComplete = s.frameComplete) ∧
    (s.cycle = 340 → s.scanline = 260 → t.cycle = 0 ∧ t.scanline = -1 ∧ t.frameComplete = true)

/-- From `(-1, 0)`, after exactly 262 * 341 master ticks the PPU is at `(-1, 0)` again with `frame_complete` set, and not
set by the frame before its last tick, whatever program runs (R258). -/
def Obligations.FrameCompletesAfter89342Ticks : Prop :=
  ∀ s : State, s.Clocked → s.scanline = -1 → s.cycle = 0 →
    (∃ t, RunsTo s (262 * 341) t ∧ t.frameComplete = true ∧ t.scanline = -1 ∧ t.cycle = 0 ∧
      t.sysclk = s.sysclk + 262 * 341) ∧
    ∀ n, n < 262 * 341 → ∃ t, RunsTo s n t ∧ t.frameComplete = s.frameComplete ∧ ppuPosition t = n

/-- From a CPU tick boundary, `cycles` CPU ticks only count down: nothing but the counters changes (R101, R119). -/
def Obligations.RemainingCyclesOnlyCountDown : Prop :=
  ∀ s : State, s.Clocked → s.sysclk % 3 = 0 → ∃ t, RunsTo s (3 * s.cycles.toNat) t ∧
    t = { s with sysclk := s.sysclk + 3 * s.cycles.toNat, scanline := t.scanline, cycle := t.cycle,
                 frameComplete := t.frameComplete, cycles := 0 }

/-- After `Bus.reset()` the first `3 * (RESET_CYCLES + 1) - 1` master ticks change nothing but the counters and leave
`cycles = 0` one tick before a CPU tick, so the next step fetches at the reset vector's target (R283).
The spec derives the tick; the count and the vector are its decisions D6 and D3. -/
def Obligations.FirstFetchAfterReset : Prop :=
  ∀ s : State, s.driver = [] →
    ∃ t, RunsTo (busReset s) (3 * (s.params.resetCycles.toNat + 1) - 1) t ∧ t.cycles = 0 ∧ (t.sysclk + 1) % 3 = 0 ∧
      t = { busReset s with sysclk := t.sysclk, scanline := t.scanline, cycle := t.cycle,
                            frameComplete := t.frameComplete, cycles := 0 } ∧
      VectorHolds 0xFFFC t.pc s

/-- The CPU fetches for as long as the host calls `Bus.clock()`: there is no stopped state (R263). -/
def Obligations.ClockedMachineNeverStops : Prop :=
  ∀ (s : State) (n : Nat), s.Clocked → ∃ t, RunsTo s n t ∧ t.Clocked

/-! ## The invariant -/

/-- The state after reset satisfies the invariant (R14, R17, R20, R32). -/
def Obligations.ResetStateSatisfiesInvariant : Prop := State.reset.Inv

/-- Every step keeps the invariant, host calls included (R14, R17, R19, R20, R22). -/
def Obligations.EveryStepKeepsTheInvariant : Prop :=
  ∀ s t : State, s.Inv → step s = .next t → t.Inv

/-- No instruction traps: each completes in every state. None touches the clock counter, the PPU, the cartridge, the
parameters or what belongs to the host, and only an illegal opcode reports an event (R66, R240, R264). Of the transient
fields `addr_rel` is written in relative mode only, and implied mode leaves `addr_abs` alone and A in `fetched` (R105, R110).
That NOP and XXX too leave A in `fetched` (R105, against R233 and R234) and that `addr_abs` and `addr_rel` are kept where no
rule writes them are DEDUCED, the model's reading (log entries 17, 18); the event's payload is the spec's decision D21 (log
entry 23). -/
def Obligations.InstructionsLeaveTheRestOfTheMachineAlone : Prop :=
  ∀ (i : Instr) (s : State), ∃ t, exec i s = .next t ∧ SameOutside s t ∧ t.opcode = s.opcode ∧
    (t.events = s.events ∨ ∃ op, i = .xxx op ∧ t.events = s.events ++ [.illegalOpcode op (s.pc - 1)]) ∧
    (∀ d, i.operand = .rel d → t.addrRel = sext16 d) ∧ (i.operand.mode ≠ .rel → t.addrRel = s.addrRel) ∧
    (i.operand.mode = .imp → t.addrAbs = s.addrAbs ∧ t.fetched = s.a)

/-- The instructions that can change each flag are those of the table of R15. Bits B and U change only where P did not hold
them as R14 says (no state of a run), and then through PLP and RTI. -/
def Obligations.OnlyListedInstructionsWriteEachFlag : Prop :=
  ∀ (i : Instr) (s t : State) (f : Flag), exec i s = .next t → t.flag f ≠ s.flag f →
    match f with
    | .c => i.name ∈ ["ADC", "SBC", "CMP", "CPX", "CPY", "ASL", "LSR", "ROL", "ROR", "CLC", "SEC", "PLP", "RTI"]
    | .z | .n => i.name ∈ ["LDA", "LDX", "LDY", "ADC", "SBC", "INC", "DEC", "INX", "INY", "DEX", "DEY", "AND", "ORA",
        "EOR", "BIT"] ++ ["ASL", "LSR", "ROL", "ROR", "CMP", "CPX", "CPY", "PLA", "TAX", "TAY", "TSX", "TXA", "TYA",
        "PLP", "RTI"]
    | .i => i.name ∈ ["SEI", "CLI", "PLP", "RTI", "BRK"]
    | .d => i.name ∈ ["SED", "CLD", "PLP", "RTI"]
    | .b | .u => i.name ∈ ["PLP", "RTI"] ∧ ¬ (s.flag .u = true ∧ s.flag .b = false)
    | .v => i.name ∈ ["ADC", "SBC", "BIT", "CLV", "PLP", "RTI"]

/-- The instructions that can change each register are those of R10 and R11. -/
def Obligations.OnlyListedInstructionsWriteEachRegister : Prop :=
  ∀ (i : Instr) (s t : State) (r : Reg), i.wf = true → exec i s = .next t → t.reg r ≠ s.reg r →
    match r with
    | .a => (i.operand = .imp ∧ i.name ∈ ["ASL", "LSR", "ROL", "ROR"]) ∨
        i.name ∈ ["LDA", "ADC", "SBC", "AND", "ORA", "EOR", "PLA", "TXA", "TYA"]
    | .x => i.name ∈ ["LDX", "INX", "DEX", "TAX", "TSX"]
    | .y => i.name ∈ ["LDY", "INY", "DEY", "TAY"]
    | .sp => i.name ∈ ["PHA", "PHP", "PLA", "PLP", "JSR", "RTS", "RTI", "BRK", "TXS"]

/-! ## Bus, cartridge and PPU-side port -/

/-- RAM mirroring: a read in the RAM window gives the RAM byte at the address modulo 0x0800 and changes nothing; a write there
is read back at every congruent address of the window, every other address reads as before, and only RAM changes (R43). -/
def Obligations.RamIsMirroredEvery2048Bytes : Prop :=
  ∀ (s : State) (a b : Word) (v : Byte) (ro : Bool), s.Inv → a.toNat < 0x2000 →
    busRead a ro s = (s.ram.read (a.toNat % 0x800), s) ∧ Stored a v s (busWrite a v s) ∧
    { busWrite a v s with ram := s.ram } = s ∧
    (b.toNat < 0x2000 → b.toNat % 0x800 = a.toNat % 0x800 → (busRead b ro (busWrite a v s)).1 = v)

/-- A write outside the RAM window changes no state: PPU registers, unmapped addresses and program ROM (R45, R48, R260).
That a PPU register write changes nothing is the spec's decision D15 (log entry 19). -/
def Obligations.WritesOutsideRamChangeNothing : Prop :=
  ∀ (s : State) (a : Word) (v : Byte), 0x2000 ≤ a.toNat → busWrite a v s = s

/-- An unmapped address reads as the unmapped value, 0x00 by default, and neither a read nor a write of it changes anything:
0x4000 to 0x7FFF, and with no cartridge all of 0x4000 to 0xFFFF (R45).
The value is the spec's decision D12 (log entry 10). -/
def Obligations.UnmappedAddressesReadTheDefault : Prop :=
  Params.default.unmappedReadValue = 0x00 ∧
  ∀ (s : State) (a : Word) (ro : Bool), 0x4000 ≤ a.toNat → (a.toNat < 0x8000 ∨ s.cart = none) →
    busRead a ro s = (s.params.unmappedReadValue, s) ∧ ∀ v, busWrite a v s = s

/-- Every read of the PPU window returns the next free value, whichever of the eight registers and whatever `readOnly` is,
and changes no state of the spec (R44, R46, R260).
The free value and its counter are the model's choice (log entry 5). -/
def Obligations.PpuRegisterReadsAreFree : Prop :=
  ∀ (s : State) (a : Word) (ro : Bool), 0x2000 ≤ a.toNat → a.toNat < 0x4000 →
    busRead a ro s = (Config.freeByte s.freeCount, { s with freeCount := s.freeCount + 1 })

/-- Mapper 000 claims CPU reads and writes from 0x8000 on, one 16 KiB bank twice or two banks once, and PPU reads below 0x2000
unmodified, and no PPU write (R50 to R53). So with its cartridge a read of 0x8000 to 0xFFFF gives program ROM, and neither
reads nor writes there change anything (R48). -/
def Obligations.Mapper000ReadsProgramRom : Prop :=
  (∀ (banks : PrgBanks) (chr : Nat) (a : Word),
    cpuMapRead (.m000 banks chr) a = (if a.toNat < 0x8000 then none
      else some (match banks with | .one => a.toNat % 0x4000 | .two => a.toNat % 0x8000)) ∧
    cpuMapWrite (.m000 banks chr) a = cpuMapRead (.m000 banks chr) a ∧
    ppuMapRead (.m000 banks chr) a = (if a.toNat < 0x2000 then some a.toNat else none) ∧
    ppuMapWrite (.m000 banks chr) a = none) ∧
  ∀ (s : State) (c : Cartridge) (a : Word) (ro : Bool), s.cart = some c → c.mapperId = 0 → 0x8000 ≤ a.toNat →
    busRead a ro s =
      (c.prg.read (match c.prgBanks with | .one => a.toNat % 0x4000 | .two => a.toNat % 0x8000), s) ∧
    ∀ v, busWrite a v s = s

/-- `Cartridge::load` succeeds exactly on the well-formed bundles, and then the cartridge holds the bundle (R54).
Well-formedness is the spec's decision D17 (log entry 20). -/
def Obligations.LoadAcceptsExactlyWellFormedBundles : Prop :=
  ∀ b : Bundle,
    (loadCartridge b ≠ none ↔ b.mapperId = 0 ∧ (b.prgBanks = 1 ∨ b.prgBanks = 2) ∧ b.chrBanks = 1 ∧
      b.prg.length = 16384 * b.prgBanks ∧ b.chr.length = 8192 * b.chrBanks) ∧
    ∀ c, loadCartridge b = some c → c.Wf ∧ c.prgBanks.count = b.prgBanks ∧ c.mirror = b.mirror ∧
      (∀ (k : Nat) (v : Byte), b.prg[k]? = some v → c.prg.read k = v) ∧
      ∀ (k : Nat) (v : Byte), b.chr[k]? = some v → c.chr.read k = v

/-- What a PPU-side read gives: pattern ROM below 0x2000, then the nametable the mirroring mode selects, then the palette
with its four folded entries (R52, R57, R59, R60).
The map is the spec's decision D16 (log entry 20). -/
def Obligations.PpuPortReadsByAddress : Prop :=
  ∀ (s : State) (c : Cartridge) (addr : Word), c.mapperId = 0 →
    let a := addr.toNat % 0x4000
    let second := match c.mirror with
      | .vertical => a / 0x400 % 2 = 1
      | .horizontal => a / 0x800 % 2 = 1
      | .oneScreenLo => False
      | .oneScreenHi => True
    (a < 0x2000 → ppuRead c addr s = c.chr.read a) ∧
    (0x2000 ≤ a → a < 0x3F00 → second → ppuRead c addr s = s.nametable1.read (a % 0x400)) ∧
    (0x2000 ≤ a → a < 0x3F00 → ¬ second → ppuRead c addr s = s.nametable0.read (a % 0x400)) ∧
    (0x3F00 ≤ a → a % 0x20 ∈ [0x10, 0x14, 0x18, 0x1C] → ppuRead c addr s = s.palette.read (a % 0x20 - 0x10)) ∧
    (0x3F00 ≤ a → a % 0x20 ∉ [0x10, 0x14, 0x18, 0x1C] → ppuRead c addr s = s.palette.read (a % 0x20))

/-- A PPU-side write below 0x2000 changes nothing; any other is read back at every address that selects the same byte, by
NtIndex and `a & 0x03FF` or by PalIndex. Every other address reads as before, every other byte of the nametables and the
palette holds what it held, and the CPU side and the counters are left alone (R53, R58, R59, R60).
The map is the spec's decision D16 (log entry 20). -/
def Obligations.PpuPortWritesAreReadBack : Prop :=
  ∀ (s : State) (c : Cartridge) (addr : Word) (v : Byte), s.Inv → c.mapperId = 0 →
    (addr.toNat % 0x4000 < 0x2000 → ppuWrite c addr v s = s) ∧
    (0x2000 ≤ addr.toNat % 0x4000 → ppuRead c addr (ppuWrite c addr v s) = v) ∧
    (∀ b, ppuByte c.mirror addr ≠ none → ppuByte c.mirror b = ppuByte c.mirror addr →
      ppuRead c b (ppuWrite c addr v s) = v) ∧
    (∀ b, ppuByte c.mirror b ≠ ppuByte c.mirror addr → ppuRead c b (ppuWrite c addr v s) = ppuRead c b s) ∧
    (∀ k, ppuByte c.mirror addr ≠ some k → ppuStored (ppuWrite c addr v s) k = ppuStored s k) ∧
    { ppuWrite c addr v s with nametable0 := s.nametable0, nametable1 := s.nametable1, palette := s.palette } = s

/-! ## Addressing modes -/

/-- The effective addresses of the modes without a pointer, as numbers: zero-page sums wrap modulo 256, absolute sums
modulo 65536 (R106 to R109, R111 to R113). -/
def Obligations.EffectiveAddressesWithoutPointer : Prop :=
  ∀ (s : State) (z : Byte) (w : Word),
    (effAddr (.imm z) s + 1 = s.pc) ∧
    (effAddr (.zp0 z) s).toNat = z.toNat ∧
    (effAddr (.zpx z) s).toNat = (z.toNat + s.x.toNat) % 256 ∧
    (effAddr (.zpy z) s).toNat = (z.toNat + s.y.toNat) % 256 ∧
    effAddr (.abs w) s = w ∧
    (effAddr (.abx w) s).toNat = (w.toNat + s.x.toNat) % 65536 ∧
    (effAddr (.aby w) s).toNat = (w.toNat + s.y.toNat) % 65536

/-- The indirect mode takes the high byte from the start of the same page when the pointer's low byte is 0xFF (R114). -/
def Obligations.IndirectModeHasThePageBug : Prop :=
  ∀ (s : State) (ptr : Word) (l h : Byte), peek ptr s = some l →
    peek (if ptr.toNat % 256 = 255 then BitVec.ofNat 16 (ptr.toNat - 255) else ptr + 1) s = some h →
    (effAddr (.ind ptr) s).toNat = h.toNat * 256 + l.toNat

/-- The pointers of IZX and IZY lie in the zero page and wrap inside it; IZY then adds Y modulo 65536 (R115, R116). -/
def Obligations.PointerModesWrapInTheZeroPage : Prop :=
  ∀ (s : State) (z : Byte),
    (effAddr (.izx z) s).toNat =
      (s.ram.read ((z.toNat + s.x.toNat + 1) % 256)).toNat * 256 + (s.ram.read ((z.toNat + s.x.toNat) % 256)).toNat ∧
    (effAddr (.izy z) s).toNat =
      ((s.ram.read ((z.toNat + 1) % 256)).toNat * 256 + (s.ram.read z.toNat).toNat + s.y.toNat) % 65536

/-- The page-cross flag is 1 exactly when the low byte plus the index reaches 256 in ABX, ABY and IZY, and is 0 in the nine
other modes, so LDA immediate takes exactly two cycles (R102, R104, R112, R113, R116). -/
def Obligations.PageCrossFlagOnlyForIndexedCarry : Prop :=
  ∀ (s : State) (o : Operand),
    (crosses o s = true ↔ match o with
      | .abx w => 256 ≤ w.toNat % 256 + s.x.toNat
      | .aby w => 256 ≤ w.toNat % 256 + s.y.toNat
      | .izy z => 256 ≤ (s.ram.read z.toNat).toNat + s.y.toNat
      | .imp | .imm _ | .zp0 _ | .zpx _ | .zpy _ | .rel _ | .abs _ | .ind _ | .izx _ => False) ∧
    ∀ v, ∃ t, exec (.lda (.imm v)) s = .next t ∧ t.cycles = 2

/-- The data byte is A in implied mode, the operand byte in immediate mode, and else the byte stored at the effective
address; a PPU register there gives a free value (R105, R106, R117, R260).
The free value is the model's choice (log entry 5).
That the immediate byte is the one fetched with the instruction, and not read again at `addr_abs`, is DEDUCED, the model's
reading (log entry 16). -/
def Obligations.DataByteComesFromTheEffectiveAddress : Prop :=
  ∀ (s : State) (o : Operand),
    (o = .imp → dataByte o s = s.a) ∧ (∀ v, o = .imm v → dataByte o s = v) ∧
    (o ≠ .imp → (∀ v, o ≠ .imm v) → ∀ v, peek (effAddr o s) s = some v → dataByte o s = v) ∧
    (o ≠ .imp → (∀ v, o ≠ .imm v) → peek (effAddr o s) s = none → ∃ n, s.freeCount ≤ n ∧ dataByte o s = Config.freeByte n)

/-! ## Loads and stores -/

/-- LDA, LDX, LDY load the data byte, set Z and N from it and change nothing else; each pays for a page cross
(R130, R131, R132). -/
def Obligations.LoadsWriteTheirRegister : Prop :=
  ∀ (s : State) (o : Operand) (i : Instr) (r : Reg), (i, r) ∈ [(Instr.lda o, Reg.a), (.ldx o, .x), (.ldy o, .y)] →
    ∃ t, exec i s = .next t ∧ t.reg r = dataByte o s ∧ ZnOf (dataByte o s) t ∧ Frame [r] [.z, .n] s t ∧
      SameMemory s t ∧ t.pc = s.pc ∧ t.cycles = i.baseCycles + (if crosses o s then 1 else 0)

/-- STA, STX, STY store their register at the effective address, change no register and no flag, and never pay for a page
cross (R133, R134, R135). -/
def Obligations.StoresWriteOneByte : Prop :=
  ∀ (s : State) (o : Operand) (i : Instr) (v : Byte), s.Inv →
    (i, v) ∈ [(Instr.sta o, s.a), (.stx o, s.x), (.sty o, s.y)] →
    ∃ t, exec i s = .next t ∧ Stored (effAddr o s) v s t ∧ Frame [] [] s t ∧ t.pc = s.pc ∧ t.cycles = i.baseCycles

/-! ## Arithmetic -/

/-- ADC: the binary sum modulo 256, C the unsigned carry, V the signed overflow, Z and N of the result; D is not read
(R140, R148). -/
def Obligations.AdcAddsWithCarry : Prop :=
  ∀ (s : State) (o : Operand), ∃ t, exec (.adc o) s = .next t ∧
    (let m := dataByte o s
     let u := s.a.toNat + m.toNat + (s.flag .c).toNat
     let n := s.a.toInt + m.toInt + (s.flag .c).toNat
     t.a.toNat = u % 256 ∧ (t.flag .c = true ↔ 256 ≤ u) ∧ (t.flag .v = true ↔ n < -128 ∨ 127 < n)) ∧
    ZnOf t.a t ∧ Frame [.a] [.c, .v, .z, .n] s t ∧ SameMemory s t ∧ t.pc = s.pc ∧
    t.cycles = (Instr.adc o).baseCycles + (if crosses o s then 1 else 0)

/-- SBC: A minus the byte minus the borrow, modulo 256, C = 1 exactly when nothing was borrowed, V the signed overflow
(R141, R148). -/
def Obligations.SbcSubtractsWithBorrow : Prop :=
  ∀ (s : State) (o : Operand), ∃ t, exec (.sbc o) s = .next t ∧
    (let m := dataByte o s
     let u : Int := s.a.toNat - m.toNat - (1 - (s.flag .c).toNat)
     let n : Int := s.a.toInt - m.toInt - (1 - (s.flag .c).toNat)
     (t.a.toNat : Int) = u % 256 ∧ (t.flag .c = true ↔ 0 ≤ u) ∧ (t.flag .v = true ↔ n < -128 ∨ 127 < n)) ∧
    ZnOf t.a t ∧ Frame [.a] [.c, .v, .z, .n] s t ∧ SameMemory s t ∧ t.pc = s.pc ∧
    t.cycles = (Instr.sbc o).baseCycles + (if crosses o s then 1 else 0)

/-- The decimal flag changes no result of ADC or SBC (R148, R289). -/
def Obligations.DecimalFlagChangesNoResult : Prop :=
  ∀ (s : State) (o : Operand) (d : Bool) (i : Instr) (t u : State), i ∈ [Instr.adc o, .sbc o] →
    exec i s = .next t → exec i (s.setFlag .d d) = .next u →
    u.a = t.a ∧ (∀ f, f ≠ .d → u.flag f = t.flag f) ∧ u.flag .d = d ∧ u.cycles = t.cycles

/-- INC and DEC change the byte at the effective address by one modulo 256 and set Z and N from the value written; C and V
are kept (R142, R143). -/
def Obligations.IncAndDecModifyMemory : Prop :=
  ∀ (s : State) (o : Operand) (i : Instr) (r : Byte), s.Inv →
    (i, r) ∈ [(Instr.inc o, dataByte o s + 1), (.dec o, dataByte o s - 1)] →
    ∃ t, exec i s = .next t ∧ WroteBack o r s t ∧ ZnOf r t ∧ Frame [.a] [.z, .n] s t ∧ t.pc = s.pc ∧
      t.cycles = i.baseCycles

/-- INX, INY, DEX, DEY, at their opcode bytes, change their register by one modulo 256 and set Z and N (R144 to R147). -/
def Obligations.IndexRegistersCountModulo256 : Prop :=
  ∀ (s : State) (i : Instr) (op : Byte) (r : Reg) (v : Byte),
    (i, op, r, v) ∈ [(Instr.inx, 0xE8, Reg.x, s.x + 1), (.iny, 0xC8, .y, s.y + 1), (.dex, 0xCA, .x, s.x - 1),
                     (.dey, (0x88 : Byte), .y, s.y - 1)] →
    decode [op] = .ok (i, []) ∧ ∃ t, exec i s = .next t ∧ t.reg r = v ∧ ZnOf v t ∧ Frame [r] [.z, .n] s t ∧
      SameMemory s t ∧ t.pc = s.pc ∧ t.cycles = 2

/-! ## Logical -/

/-- AND, ORA, EOR combine A with the data byte bit by bit and set Z and N (R160, R161, R162). -/
def Obligations.LogicalOperationsWorkBitByBit : Prop :=
  ∀ (s : State) (o : Operand) (i : Instr) (f : Bool → Bool → Bool),
    (i, f) ∈ [(Instr.and o, (· && ·)), (.ora o, (· || ·)), (.eor o, Bool.xor)] →
    ∃ t, exec i s = .next t ∧ (∀ k, k < 8 → t.a.getLsbD k = f (s.a.getLsbD k) ((dataByte o s).getLsbD k)) ∧
      ZnOf t.a t ∧ Frame [.a] [.z, .n] s t ∧ SameMemory s t ∧ t.pc = s.pc ∧
      t.cycles = i.baseCycles + (if crosses o s then 1 else 0)

/-- BIT: Z from A and the byte, N and V from the byte's bits 7 and 6 themselves; A is unchanged; opcodes 24 and 2C (R163). -/
def Obligations.BitTestsTheByteItself : Prop :=
  (∀ lo hi : Byte, decode [0x24, lo] = .ok (.bit (.zp0 lo), []) ∧
    decode [0x2C, lo, hi] = .ok (.bit (.abs (word16 hi lo)), [])) ∧
  ∀ (s : State) (o : Operand), ∃ t, exec (.bit o) s = .next t ∧
    (t.flag .z = true ↔ ∀ k, k < 8 → (s.a.getLsbD k && (dataByte o s).getLsbD k) = false) ∧
    t.flag .n = (dataByte o s).getLsbD 7 ∧ t.flag .v = (dataByte o s).getLsbD 6 ∧
    Frame [] [.z, .n, .v] s t ∧ SameMemory s t ∧ t.pc = s.pc ∧ t.cycles = (Instr.bit o).baseCycles

/-! ## Shift and rotate -/

/-- ASL and LSR double and halve the byte; C is the bit shifted out; the result goes to A or back to memory
(R170, R171). -/
def Obligations.ShiftsMoveOneBitOut : Prop :=
  ∀ (s : State) (o : Operand) (i : Instr) (r : Byte) (out : Bool), s.Inv →
    (i, r, out) ∈ [(Instr.asl o, BitVec.ofNat 8 (2 * (dataByte o s).toNat), (dataByte o s).getLsbD 7),
                   (.lsr o, BitVec.ofNat 8 ((dataByte o s).toNat / 2), (dataByte o s).getLsbD 0)] →
    ∃ t, exec i s = .next t ∧ WroteBack o r s t ∧ t.flag .c = out ∧ ZnOf r t ∧ Frame [.a] [.c, .z, .n] s t ∧
      t.pc = s.pc ∧ t.cycles = i.baseCycles

/-- ROL and ROR rotate the nine bits of C and the byte; the old carry enters (R172, R173). -/
def Obligations.RotatesGoThroughTheCarry : Prop :=
  ∀ (s : State) (o : Operand) (i : Instr) (r : Byte) (out : Bool), s.Inv →
    (i, r, out) ∈
      [(Instr.rol o, BitVec.ofNat 8 (2 * (dataByte o s).toNat + (s.flag .c).toNat), (dataByte o s).getLsbD 7),
       (.ror o, BitVec.ofNat 8 ((dataByte o s).toNat / 2 + 128 * (s.flag .c).toNat), (dataByte o s).getLsbD 0)] →
    ∃ t, exec i s = .next t ∧ WroteBack o r s t ∧ t.flag .c = out ∧ ZnOf r t ∧ Frame [.a] [.c, .z, .n] s t ∧
      t.pc = s.pc ∧ t.cycles = i.baseCycles

/-! ## Compare and branch -/

/-- CMP, CPX, CPY: C says register >= byte, Z equal, N bit 7 of the difference; nothing else changes. CMP pays for a page
cross, CPX and CPY do not (R180, R181, R182). -/
def Obligations.ComparesSetCarryZeroNegative : Prop :=
  ∀ (s : State) (o : Operand) (i : Instr) (v : Byte) (pays : Bool),
    (i, v, pays) ∈ [(Instr.cmp o, s.a, true), (.cpx o, s.x, false), (.cpy o, s.y, false)] →
    ∃ t, exec i s = .next t ∧
      (t.flag .c = true ↔ (dataByte o s).toNat ≤ v.toNat) ∧ (t.flag .z = true ↔ v = dataByte o s) ∧
      (t.flag .n = true ↔ 128 ≤ ((v.toNat : Int) - (dataByte o s).toNat) % 256) ∧
      Frame [] [.c, .z, .n] s t ∧ SameMemory s t ∧ t.pc = s.pc ∧
      t.cycles = i.baseCycles + (if pays && crosses o s then 1 else 0)

/-- The eight branches, at their opcode bytes: taken on their flag, to the next sequential address plus the signed displacement modulo 65536; two
cycles, one more when taken, two more when taken to another page (R103, R190 to R198).
The extra cycles are the spec's decision D11 (log entry 21).
That a branch not taken leaves `addr_abs` alone is DEDUCED, the model's reading (log entry 18). -/
def Obligations.BranchesGoWhereTheirFlagSays : Prop :=
  ∀ (s : State) (d : Byte) (i : Instr) (op : Byte) (taken : Bool),
    (i, op, taken) ∈ [(Instr.bcc d, 0x90, !s.flag .c), (.bcs d, 0xB0, s.flag .c), (.beq d, 0xF0, s.flag .z),
                      (.bmi d, 0x30, s.flag .n), (.bne d, 0xD0, !s.flag .z), (.bpl d, 0x10, !s.flag .n),
                      (.bvc d, 0x50, !s.flag .v), (.bvs d, (0x70 : Byte), s.flag .v)] →
    decode [op, d] = .ok (i, []) ∧ ∃ t, exec i s = .next t ∧
      t.pc = (if taken then BitVec.ofInt 16 (s.pc.toNat + d.toInt) else s.pc) ∧
      t.addrAbs = (if taken then t.pc else s.addrAbs) ∧
      t.cycles = (if taken && s.params.branchExtraCycles then
        (if t.pc.toNat / 256 = s.pc.toNat / 256 then 3 else 4) else 2) ∧
      Frame [] [] s t ∧ SameMemory s t

/-! ## Stack -/

/-- PHA pushes A, PHP pushes P with bits 4 and 5 set: the byte goes to 0x0100 + SP, SP goes down by one modulo 256, and no
flag changes; opcodes 48 and 08 (R11, R200, R201).
The pushed bits 4 and 5 are the spec's decision D9 (log entry 13). -/
def Obligations.PushesStoreBelowTheStackPointer : Prop :=
  ∀ (s : State) (i : Instr) (op v : Byte), s.Inv →
    (i, op, v) ∈ [(Instr.pha, 0x48, s.a), (.php, (0x08 : Byte), s.p ||| 0x30)] →
    decode [op] = .ok (i, []) ∧ ∃ t, exec i s = .next t ∧ (stackSlot s.sp).toNat = 0x100 + s.sp.toNat ∧
      Stored (stackSlot s.sp) v s t ∧ t.sp = s.sp - 1 ∧ Frame [.sp] [] s t ∧ t.pc = s.pc ∧ t.cycles = 3

/-- PLA pulls A and sets Z and N; PLP pulls P, with bit 5 staying 1 and bit 4 staying 0. SP goes up by one modulo 256 and
the byte is read at 0x0100 + SP; opcodes 68 and 28 (R11, R202, R203).
Bits 4 and 5 are the spec's decision D9 (log entry 13). -/
def Obligations.PullsReadAboveTheStackPointer : Prop :=
  decode [0x68] = .ok (.pla, []) ∧ decode [0x28] = .ok (.plp, []) ∧
  ∀ s : State, ∃ v, peek (stackSlot (s.sp + 1)) s = some v ∧
    (∃ t, exec .pla s = .next t ∧ t.a = v ∧ ZnOf v t ∧ t.sp = s.sp + 1 ∧ Frame [.a, .sp] [.z, .n] s t ∧
      SameMemory s t ∧ t.pc = s.pc ∧ t.cycles = 4) ∧
    (∃ t, exec .plp s = .next t ∧ t.p = (v &&& 0xCF) ||| 0x20 ∧ t.sp = s.sp + 1 ∧
      Frame [.sp] [.c, .z, .i, .d, .b, .u, .v, .n] s t ∧ SameMemory s t ∧ t.pc = s.pc ∧ t.cycles = 4)

/-! ## Jumps, calls, returns, software interrupt -/

/-- JMP goes to the effective address and changes nothing else; three cycles absolute (opcode 4C), five indirect
(opcode 6C) (R210). -/
def Obligations.JumpGoesToTheEffectiveAddress : Prop :=
  (∀ lo hi : Byte, decode [0x4C, lo, hi] = .ok (.jmp (.abs (word16 hi lo)), []) ∧
    decode [0x6C, lo, hi] = .ok (.jmp (.ind (word16 hi lo)), [])) ∧
  ∀ (s : State) (o : Operand), ∃ t, exec (.jmp o) s = .next t ∧ t.pc = effAddr o s ∧ Frame [] [] s t ∧
    SameMemory s t ∧ (o.mode = .abs → t.cycles = 3) ∧ (o.mode = .ind → t.cycles = 5)

/-- JSR pushes the address of its own last byte, high byte first, and goes to its operand; opcode 20, six cycles (R211). -/
def Obligations.JsrPushesItsLastByteAddress : Prop :=
  (∀ lo hi : Byte, decode [0x20, lo, hi] = .ok (.jsr (word16 hi lo), [])) ∧
  ∀ (s : State) (w : Word), s.Inv → ∃ t, exec (.jsr w) s = .next t ∧ t.pc = w ∧ t.sp = s.sp - 2 ∧
    peek (stackSlot s.sp) t = some (hiByte (s.pc - 1)) ∧ peek (stackSlot (s.sp - 1)) t = some (loByte (s.pc - 1)) ∧
    (∀ a, ¬ Mirrors (stackSlot s.sp) a → ¬ Mirrors (stackSlot (s.sp - 1)) a → peek a t = peek a s) ∧
    Frame [.sp] [] s t ∧ t.cycles = 6

/-- RTS, opcode 60, goes to the pulled address plus one, modulo 65536, in six cycles (R212). -/
def Obligations.RtsReturnsToThePulledAddressPlusOne : Prop :=
  decode [0x60] = .ok (.rts, []) ∧
  ∀ s : State, ∃ lo hi t, peek (stackSlot (s.sp + 1)) s = some lo ∧ peek (stackSlot (s.sp + 2)) s = some hi ∧
    exec .rts s = .next t ∧ t.pc.toNat = (hi.toNat * 256 + lo.toNat + 1) % 65536 ∧ t.sp = s.sp + 2 ∧
    Frame [.sp] [] s t ∧ SameMemory s t ∧ t.cycles = 6

/-- RTI, opcode 40, pulls P, with bit 5 staying 1 and bit 4 staying 0, then PC with nothing added (R213).
Bits 4 and 5 are the spec's decision D9 (log entry 13). -/
def Obligations.RtiRestoresStatusAndPc : Prop :=
  decode [0x40] = .ok (.rti, []) ∧
  ∀ s : State, ∃ v lo hi t, peek (stackSlot (s.sp + 1)) s = some v ∧ peek (stackSlot (s.sp + 2)) s = some lo ∧
    peek (stackSlot (s.sp + 3)) s = some hi ∧ exec .rti s = .next t ∧ t.p = (v &&& 0xCF) ||| 0x20 ∧
    t.pc.toNat = hi.toNat * 256 + lo.toNat ∧ t.sp = s.sp + 3 ∧
    Frame [.sp] [.c, .z, .i, .d, .b, .u, .v, .n] s t ∧ SameMemory s t ∧ t.cycles = 6

/-- BRK, opcode 00, pushes its address + 2 and P with Break and the unused bit set, sets I and goes through the IRQ vector, whatever I
is (R214, R251).
The frame and the vector are the spec's decisions D3, D9, D10, D23 (log entries 12, 13). -/
def Obligations.BrkEntersThroughTheIrqVector : Prop :=
  decode [0x00] = .ok (.brk, []) ∧
  ∀ s : State, s.Inv → ∃ t, exec .brk s = .next t ∧ PushedFrame (s.pc + 1) (s.p ||| 0x30) s t ∧
    VectorHolds 0xFFFE t.pc s ∧ t.flag .i = true ∧ Frame [.sp] [.i] s t ∧ t.cycles = 7

/-- RTS after JSR resumes at the instruction after the JSR with SP restored, if the stack bytes are as JSR left them
(R211, R212). -/
def Obligations.RtsUndoesJsr : Prop :=
  ∀ (s t u : State) (w : Word), s.Inv → exec (.jsr w) s = .next t → u.ram = t.ram → u.sp = t.sp →
    ∃ v, exec .rts u = .next v ∧ v.pc = s.pc ∧ v.sp = s.sp

/-! ## Flags, transfers, no operation, illegal opcodes -/

/-- The seven flag instructions, at their opcode bytes, write their flag and nothing else (R220 to R226). -/
def Obligations.FlagInstructionsWriteTheirFlag : Prop :=
  ∀ (s : State) (i : Instr) (op : Byte) (f : Flag) (b : Bool),
    (i, op, f, b) ∈ [(Instr.clc, 0x18, Flag.c, false), (.cld, 0xD8, .d, false), (.cli, 0x58, .i, false),
                     (.clv, 0xB8, .v, false), (.sec, 0x38, .c, true), (.sed, 0xF8, .d, true),
                     (.sei, (0x78 : Byte), .i, true)] →
    decode [op] = .ok (i, []) ∧ ∃ t, exec i s = .next t ∧ t.flag f = b ∧ Frame [] [f] s t ∧ SameMemory s t ∧
      t.pc = s.pc ∧ t.cycles = 2

/-- The register transfers, at their opcode bytes, copy a register and set Z and N, but TXS sets no flag (R227 to R232). -/
def Obligations.TransfersCopyTheirRegister : Prop :=
  ∀ (s : State) (i : Instr) (op v : Byte) (r : Reg),
    ((i, op, v, r) ∈ [(Instr.tax, 0xAA, s.a, Reg.x), (.tay, 0xA8, s.a, .y), (.tsx, 0xBA, s.sp, .x),
                      (.txa, 0x8A, s.x, .a), (.tya, (0x98 : Byte), s.y, .a)] →
      decode [op] = .ok (i, []) ∧ ∃ t, exec i s = .next t ∧ t.reg r = v ∧ ZnOf v t ∧ Frame [r] [.z, .n] s t ∧
        SameMemory s t ∧ t.pc = s.pc ∧ t.cycles = 2) ∧
    decode [0x9A] = .ok (.txs, []) ∧ ∃ t, exec .txs s = .next t ∧ t.sp = s.x ∧ Frame [.sp] [] s t ∧ SameMemory s t ∧
      t.pc = s.pc ∧ t.cycles = 2

/-- NOP changes nothing beyond what the fetch did. An illegal opcode changes no register, flag or memory byte either: it
reports its byte and the address it was fetched from. Both take two cycles (R233, R234, R241).
The event's payload is the spec's decision D21 (log entry 23). -/
def Obligations.NopAndIllegalOpcodesChangeNoRegister : Prop :=
  ∀ s : State,
    decode [0xEA] = .ok (.nop, []) ∧
    (∃ t, exec .nop s = .next t ∧ Frame [] [] s t ∧ SameMemory s t ∧ t.pc = s.pc ∧ t.cycles = 2) ∧
    ∀ op, op ∈ illegalOpcodes → decode [op] = .ok (.xxx op, []) ∧ ∃ t, exec (.xxx op) s = .next t ∧
      t.events = s.events ++ [.illegalOpcode op (s.pc - 1)] ∧ Frame [] [] s { t with events := s.events } ∧
      SameMemory s t ∧ t.pc = s.pc ∧ t.cycles = 2

/-! ## Interrupt inputs and reset -/

/-- `irq()` with I clear pushes PC and P with Break clear, sets I, goes through the IRQ vector and costs `IRQ_CYCLES`; with I
set it changes nothing. `nmi()` enters whatever I is, and sets I exactly when `NMI_SETS_I` (R246, R247, R251).
Masking, the frame and the vectors are the spec's decisions D3, D7 to D10 (log entries 12 to 14). The premise on `phase` is the model's (log entry 4). -/
def Obligations.InterruptInputsEnterTheirHandlers : Prop :=
  ∀ s : State, s.Inv → s.phase = .running →
    (s.flag .i = true → hostCall .irq s = .next s) ∧
    (s.flag .i = false → ∃ t, hostCall .irq s = .next t ∧ PushedFrame s.pc ((s.p ||| 0x20) &&& 0xEF) s t ∧
      VectorHolds 0xFFFE t.pc s ∧ t.flag .i = true ∧ Frame [.sp] [.i] s t ∧ t.cycles = s.params.irqCycles) ∧
    ∃ t, hostCall .nmi s = .next t ∧ PushedFrame s.pc ((s.p ||| 0x20) &&& 0xEF) s t ∧ VectorHolds 0xFFFA t.pc s ∧
      t.flag .i = (s.flag .i || s.params.nmiSetsI) ∧ Frame [.sp] [.i] s t ∧ t.cycles = s.params.nmiCycles

/-- RTI after `irq()`, `nmi()` or BRK, the stack bytes as the entry left them, restores P and SP and resumes at the
interrupted address, for BRK at its address + 2 (R213, R214, R252).
Bits 4 and 5 are the spec's decision D9 (log entry 13). The premise on `phase` is the model's (log entry 4). -/
def Obligations.RtiUndoesEveryEntry : Prop :=
  ∀ (s t u : State) (resume : Word), s.Inv → s.phase = .running →
    ((s.flag .i = false ∧ hostCall .irq s = .next t ∧ resume = s.pc) ∨ (hostCall .nmi s = .next t ∧ resume = s.pc) ∨
      (exec .brk s = .next t ∧ resume = s.pc + 1)) →
    u.ram = t.ram → u.sp = t.sp → ∃ v, exec .rti u = .next v ∧ v.pc = resume ∧ v.p = s.p ∧ v.sp = s.sp

/-- `Bus.reset()` loads PC from the reset vector, sets the registers to their reset values, clears the transient state and
the clock counter, and changes nothing else (R32, R33, R280, R281).
The register values are the spec's decision D5 (log entry 11); `phase` is the model's (log entry 4). -/
def Obligations.BusResetSetsTheResetValues : Prop :=
  ∀ s : State, ∃ t, hostCall .reset s = .next t ∧ VectorHolds 0xFFFC t.pc s ∧
    t = { s with a := 0, x := 0, y := 0, sp := 0xFD, p := 0x24, pc := t.pc, fetched := 0, addrAbs := 0, addrRel := 0,
                 opcode := 0, cycles := s.params.resetCycles, sysclk := 0, phase := .running }

/-- The state after reset is `Bus.reset()` of the machine as constructed with no cartridge and default parameters
(R31 to R34).
No cartridge, the default parameters and zero memories are the model's choice (log entries 3, 8, 10). -/
def Obligations.ResetStateIsConstructionThenReset : Prop :=
  State.reset = busReset (State.construct Params.default none (List.replicate 2048 0)
    ⟨List.replicate 1024 0, List.replicate 1024 0, List.replicate 32 0⟩)

/-- A step serves the first queued host call, with the rest left queued, or `Bus.clock()` when none is (R8). Bus.read and
ppu_read return their byte in `reply`; Bus.write and ppu_write store; `clear_frame_complete` clears the flag; a load of a
well-formed bundle before any other call inserts the loaded cartridge; and none of them changes anything else (R8, R54, R57,
R58, R72, R259). Before the first `Bus.reset()` the calls `clock`, `irq` and `nmi` are refused; without a cartridge the
PPU-side port is refused; a load fails on a malformed bundle, and is refused once any call has been served (R8, R54, R57, R284).
The queue, `reply` and `phase` are the model's form of it (log entries 4, 6, 9); `clear_frame_complete` is the spec's decision
D33. -/
def Obligations.CallsOutOfOrderAreRefused : Prop :=
  ∀ s : State,
    (s.driver = [] → step s = hostCall .clock s) ∧
    (∀ call rest, s.driver = call :: rest → step s = hostCall call { s with driver := rest }) ∧
    (s.phase.next ≠ .loading ∧ (s.phase ≠ .loading → s.phase.next = s.phase)) ∧
    (s.phase = .running → hostCall .clock s = busClock s) ∧
    (∀ a ro, hostCall (.busRead a ro) s =
      .next { (busRead a ro s).2 with reply := some (busRead a ro s).1, phase := s.phase.next }) ∧
    (∀ a v, hostCall (.busWrite a v) s = .next { busWrite a v s with phase := s.phase.next }) ∧
    hostCall .clearFrameComplete s = .next { s with frameComplete := false, phase := s.phase.next } ∧
    (∀ c, s.cart = some c → ∀ a v,
      hostCall (.ppuRead a) s = .next { s with reply := some (ppuRead c a s), phase := s.phase.next } ∧
      hostCall (.ppuWrite a v) s = .next { ppuWrite c a v s with phase := s.phase.next }) ∧
    (s.phase = .loading → ∀ b c, loadCartridge b = some c →
      hostCall (.load b) s = .next { s with cart := some c, phase := .built }) ∧
    (s.phase ≠ .running → hostCall .clock s = .refused .notReset ∧ hostCall .irq s = .refused .notReset ∧
      hostCall .nmi s = .refused .notReset) ∧
    (s.cart = none → ∀ a v, hostCall (.ppuRead a) s = .refused .noCartridge ∧
      hostCall (.ppuWrite a v) s = .refused .noCartridge) ∧
    (s.phase = .loading → ∀ b, loadCartridge b = none → hostCall (.load b) s = .fault .loadError) ∧
    (s.phase ≠ .loading → ∀ b, hostCall (.load b) s = .refused .loadNotFirst)
end

