-- ==== Sys2Proof/Laws/State.lean ====
section
/-! SUPPORT. Every field after every update of State: one lemma per update, a conjunction simp splits into one rule per field. -/

namespace Sys2Proof.Machine.State

variable (s : State)

@[simp] theorem setA_fields (v : Byte) :
    (s.setA v).a = v ∧ (s.setA v).x = s.x ∧ (s.setA v).y = s.y
    ∧ (s.setA v).sp = s.sp ∧ (s.setA v).pc = s.pc ∧ (s.setA v).p = s.p
    ∧ (s.setA v).fetched = s.fetched ∧ (s.setA v).addrAbs = s.addrAbs ∧ (s.setA v).addrRel = s.addrRel
    ∧ (s.setA v).opcode = s.opcode ∧ (s.setA v).cycles = s.cycles ∧ (s.setA v).ram = s.ram
    ∧ (s.setA v).sysclk = s.sysclk ∧ (s.setA v).nametable0 = s.nametable0 ∧ (s.setA v).nametable1 = s.nametable1
    ∧ (s.setA v).palette = s.palette ∧ (s.setA v).scanline = s.scanline ∧ (s.setA v).cycle = s.cycle
    ∧ (s.setA v).frameComplete = s.frameComplete ∧ (s.setA v).cart = s.cart ∧ (s.setA v).events = s.events
    ∧ (s.setA v).params = s.params ∧ (s.setA v).phase = s.phase ∧ (s.setA v).freeCount = s.freeCount
    ∧ (s.setA v).driver = s.driver ∧ (s.setA v).reply = s.reply := by
  refine ⟨rfl, rfl, rfl, rfl, rfl, rfl, rfl, rfl, rfl, rfl, rfl, rfl, rfl, rfl, rfl, rfl, rfl, rfl, rfl, rfl, rfl, rfl, rfl, rfl, rfl, rfl⟩

@[simp] theorem setX_fields (v : Byte) :
    (s.setX v).a = s.a ∧ (s.setX v).x = v ∧ (s.setX v).y = s.y
    ∧ (s.setX v).sp = s.sp ∧ (s.setX v).pc = s.pc ∧ (s.setX v).p = s.p
    ∧ (s.setX v).fetched = s.fetched ∧ (s.setX v).addrAbs = s.addrAbs ∧ (s.setX v).addrRel = s.addrRel
    ∧ (s.setX v).opcode = s.opcode ∧ (s.setX v).cycles = s.cycles ∧ (s.setX v).ram = s.ram
    ∧ (s.setX v).sysclk = s.sysclk ∧ (s.setX v).nametable0 = s.nametable0 ∧ (s.setX v).nametable1 = s.nametable1
    ∧ (s.setX v).palette = s.palette ∧ (s.setX v).scanline = s.scanline ∧ (s.setX v).cycle = s.cycle
    ∧ (s.setX v).frameComplete = s.frameComplete ∧ (s.setX v).cart = s.cart ∧ (s.setX v).events = s.events
    ∧ (s.setX v).params = s.params ∧ (s.setX v).phase = s.phase ∧ (s.setX v).freeCount = s.freeCount
    ∧ (s.setX v).driver = s.driver ∧ (s.setX v).reply = s.reply := by
  refine ⟨rfl, rfl, rfl, rfl, rfl, rfl, rfl, rfl, rfl, rfl, rfl, rfl, rfl, rfl, rfl, rfl, rfl, rfl, rfl, rfl, rfl, rfl, rfl, rfl, rfl, rfl⟩

@[simp] theorem setY_fields (v : Byte) :
    (s.setY v).a = s.a ∧ (s.setY v).x = s.x ∧ (s.setY v).y = v
    ∧ (s.setY v).sp = s.sp ∧ (s.setY v).pc = s.pc ∧ (s.setY v).p = s.p
    ∧ (s.setY v).fetched = s.fetched ∧ (s.setY v).addrAbs = s.addrAbs ∧ (s.setY v).addrRel = s.addrRel
    ∧ (s.setY v).opcode = s.opcode ∧ (s.setY v).cycles = s.cycles ∧ (s.setY v).ram = s.ram
    ∧ (s.setY v).sysclk = s.sysclk ∧ (s.setY v).nametable0 = s.nametable0 ∧ (s.setY v).nametable1 = s.nametable1
    ∧ (s.setY v).palette = s.palette ∧ (s.setY v).scanline = s.scanline ∧ (s.setY v).cycle = s.cycle
    ∧ (s.setY v).frameComplete = s.frameComplete ∧ (s.setY v).cart = s.cart ∧ (s.setY v).events = s.events
    ∧ (s.setY v).params = s.params ∧ (s.setY v).phase = s.phase ∧ (s.setY v).freeCount = s.freeCount
    ∧ (s.setY v).driver = s.driver ∧ (s.setY v).reply = s.reply := by
  refine ⟨rfl, rfl, rfl, rfl, rfl, rfl, rfl, rfl, rfl, rfl, rfl, rfl, rfl, rfl, rfl, rfl, rfl, rfl, rfl, rfl, rfl, rfl, rfl, rfl, rfl, rfl⟩

@[simp] theorem setSp_fields (v : Byte) :
    (s.setSp v).a = s.a ∧ (s.setSp v).x = s.x ∧ (s.setSp v).y = s.y
    ∧ (s.setSp v).sp = v ∧ (s.setSp v).pc = s.pc ∧ (s.setSp v).p = s.p
    ∧ (s.setSp v).fetched = s.fetched ∧ (s.setSp v).addrAbs = s.addrAbs ∧ (s.setSp v).addrRel = s.addrRel
    ∧ (s.setSp v).opcode = s.opcode ∧ (s.setSp v).cycles = s.cycles ∧ (s.setSp v).ram = s.ram
    ∧ (s.setSp v).sysclk = s.sysclk ∧ (s.setSp v).nametable0 = s.nametable0 ∧ (s.setSp v).nametable1 = s.nametable1
    ∧ (s.setSp v).palette = s.palette ∧ (s.setSp v).scanline = s.scanline ∧ (s.setSp v).cycle = s.cycle
    ∧ (s.setSp v).frameComplete = s.frameComplete ∧ (s.setSp v).cart = s.cart ∧ (s.setSp v).events = s.events
    ∧ (s.setSp v).params = s.params ∧ (s.setSp v).phase = s.phase ∧ (s.setSp v).freeCount = s.freeCount
    ∧ (s.setSp v).driver = s.driver ∧ (s.setSp v).reply = s.reply := by
  refine ⟨rfl, rfl, rfl, rfl, rfl, rfl, rfl, rfl, rfl, rfl, rfl, rfl, rfl, rfl, rfl, rfl, rfl, rfl, rfl, rfl, rfl, rfl, rfl, rfl, rfl, rfl⟩

@[simp] theorem setPc_fields (v : Word) :
    (s.setPc v).a = s.a ∧ (s.setPc v).x = s.x ∧ (s.setPc v).y = s.y
    ∧ (s.setPc v).sp = s.sp ∧ (s.setPc v).pc = v ∧ (s.setPc v).p = s.p
    ∧ (s.setPc v).fetched = s.fetched ∧ (s.setPc v).addrAbs = s.addrAbs ∧ (s.setPc v).addrRel = s.addrRel
    ∧ (s.setPc v).opcode = s.opcode ∧ (s.setPc v).cycles = s.cycles ∧ (s.setPc v).ram = s.ram
    ∧ (s.setPc v).sysclk = s.sysclk ∧ (s.setPc v).nametable0 = s.nametable0 ∧ (s.setPc v).nametable1 = s.nametable1
    ∧ (s.setPc v).palette = s.palette ∧ (s.setPc v).scanline = s.scanline ∧ (s.setPc v).cycle = s.cycle
    ∧ (s.setPc v).frameComplete = s.frameComplete ∧ (s.setPc v).cart = s.cart ∧ (s.setPc v).events = s.events
    ∧ (s.setPc v).params = s.params ∧ (s.setPc v).phase = s.phase ∧ (s.setPc v).freeCount = s.freeCount
    ∧ (s.setPc v).driver = s.driver ∧ (s.setPc v).reply = s.reply := by
  refine ⟨rfl, rfl, rfl, rfl, rfl, rfl, rfl, rfl, rfl, rfl, rfl, rfl, rfl, rfl, rfl, rfl, rfl, rfl, rfl, rfl, rfl, rfl, rfl, rfl, rfl, rfl⟩

@[simp] theorem setP_fields (v : Byte) :
    (s.setP v).a = s.a ∧ (s.setP v).x = s.x ∧ (s.setP v).y = s.y
    ∧ (s.setP v).sp = s.sp ∧ (s.setP v).pc = s.pc ∧ (s.setP v).p = v
    ∧ (s.setP v).fetched = s.fetched ∧ (s.setP v).addrAbs = s.addrAbs ∧ (s.setP v).addrRel = s.addrRel
    ∧ (s.setP v).opcode = s.opcode ∧ (s.setP v).cycles = s.cycles ∧ (s.setP v).ram = s.ram
    ∧ (s.setP v).sysclk = s.sysclk ∧ (s.setP v).nametable0 = s.nametable0 ∧ (s.setP v).nametable1 = s.nametable1
    ∧ (s.setP v).palette = s.palette ∧ (s.setP v).scanline = s.scanline ∧ (s.setP v).cycle = s.cycle
    ∧ (s.setP v).frameComplete = s.frameComplete ∧ (s.setP v).cart = s.cart ∧ (s.setP v).events = s.events
    ∧ (s.setP v).params = s.params ∧ (s.setP v).phase = s.phase ∧ (s.setP v).freeCount = s.freeCount
    ∧ (s.setP v).driver = s.driver ∧ (s.setP v).reply = s.reply := by
  refine ⟨rfl, rfl, rfl, rfl, rfl, rfl, rfl, rfl, rfl, rfl, rfl, rfl, rfl, rfl, rfl, rfl, rfl, rfl, rfl, rfl, rfl, rfl, rfl, rfl, rfl, rfl⟩

@[simp] theorem setFetched_fields (v : Byte) :
    (s.setFetched v).a = s.a ∧ (s.setFetched v).x = s.x ∧ (s.setFetched v).y = s.y
    ∧ (s.setFetched v).sp = s.sp ∧ (s.setFetched v).pc = s.pc ∧ (s.setFetched v).p = s.p
    ∧ (s.setFetched v).fetched = v ∧ (s.setFetched v).addrAbs = s.addrAbs ∧ (s.setFetched v).addrRel = s.addrRel
    ∧ (s.setFetched v).opcode = s.opcode ∧ (s.setFetched v).cycles = s.cycles ∧ (s.setFetched v).ram = s.ram
    ∧ (s.setFetched v).sysclk = s.sysclk ∧ (s.setFetched v).nametable0 = s.nametable0 ∧ (s.setFetched v).nametable1 = s.nametable1
    ∧ (s.setFetched v).palette = s.palette ∧ (s.setFetched v).scanline = s.scanline ∧ (s.setFetched v).cycle = s.cycle
    ∧ (s.setFetched v).frameComplete = s.frameComplete ∧ (s.setFetched v).cart = s.cart ∧ (s.setFetched v).events = s.events
    ∧ (s.setFetched v).params = s.params ∧ (s.setFetched v).phase = s.phase ∧ (s.setFetched v).freeCount = s.freeCount
    ∧ (s.setFetched v).driver = s.driver ∧ (s.setFetched v).reply = s.reply := by
  refine ⟨rfl, rfl, rfl, rfl, rfl, rfl, rfl, rfl, rfl, rfl, rfl, rfl, rfl, rfl, rfl, rfl, rfl, rfl, rfl, rfl, rfl, rfl, rfl, rfl, rfl, rfl⟩

@[simp] theorem setAddrAbs_fields (v : Word) :
    (s.setAddrAbs v).a = s.a ∧ (s.setAddrAbs v).x = s.x ∧ (s.setAddrAbs v).y = s.y
    ∧ (s.setAddrAbs v).sp = s.sp ∧ (s.setAddrAbs v).pc = s.pc ∧ (s.setAddrAbs v).p = s.p
    ∧ (s.setAddrAbs v).fetched = s.fetched ∧ (s.setAddrAbs v).addrAbs = v ∧ (s.setAddrAbs v).addrRel = s.addrRel
    ∧ (s.setAddrAbs v).opcode = s.opcode ∧ (s.setAddrAbs v).cycles = s.cycles ∧ (s.setAddrAbs v).ram = s.ram
    ∧ (s.setAddrAbs v).sysclk = s.sysclk ∧ (s.setAddrAbs v).nametable0 = s.nametable0 ∧ (s.setAddrAbs v).nametable1 = s.nametable1
    ∧ (s.setAddrAbs v).palette = s.palette ∧ (s.setAddrAbs v).scanline = s.scanline ∧ (s.setAddrAbs v).cycle = s.cycle
    ∧ (s.setAddrAbs v).frameComplete = s.frameComplete ∧ (s.setAddrAbs v).cart = s.cart ∧ (s.setAddrAbs v).events = s.events
    ∧ (s.setAddrAbs v).params = s.params ∧ (s.setAddrAbs v).phase = s.phase ∧ (s.setAddrAbs v).freeCount = s.freeCount
    ∧ (s.setAddrAbs v).driver = s.driver ∧ (s.setAddrAbs v).reply = s.reply := by
  refine ⟨rfl, rfl, rfl, rfl, rfl, rfl, rfl, rfl, rfl, rfl, rfl, rfl, rfl, rfl, rfl, rfl, rfl, rfl, rfl, rfl, rfl, rfl, rfl, rfl, rfl, rfl⟩

@[simp] theorem setAddrRel_fields (v : Word) :
    (s.setAddrRel v).a = s.a ∧ (s.setAddrRel v).x = s.x ∧ (s.setAddrRel v).y = s.y
    ∧ (s.setAddrRel v).sp = s.sp ∧ (s.setAddrRel v).pc = s.pc ∧ (s.setAddrRel v).p = s.p
    ∧ (s.setAddrRel v).fetched = s.fetched ∧ (s.setAddrRel v).addrAbs = s.addrAbs ∧ (s.setAddrRel v).addrRel = v
    ∧ (s.setAddrRel v).opcode = s.opcode ∧ (s.setAddrRel v).cycles = s.cycles ∧ (s.setAddrRel v).ram = s.ram
    ∧ (s.setAddrRel v).sysclk = s.sysclk ∧ (s.setAddrRel v).nametable0 = s.nametable0 ∧ (s.setAddrRel v).nametable1 = s.nametable1
    ∧ (s.setAddrRel v).palette = s.palette ∧ (s.setAddrRel v).scanline = s.scanline ∧ (s.setAddrRel v).cycle = s.cycle
    ∧ (s.setAddrRel v).frameComplete = s.frameComplete ∧ (s.setAddrRel v).cart = s.cart ∧ (s.setAddrRel v).events = s.events
    ∧ (s.setAddrRel v).params = s.params ∧ (s.setAddrRel v).phase = s.phase ∧ (s.setAddrRel v).freeCount = s.freeCount
    ∧ (s.setAddrRel v).driver = s.driver ∧ (s.setAddrRel v).reply = s.reply := by
  refine ⟨rfl, rfl, rfl, rfl, rfl, rfl, rfl, rfl, rfl, rfl, rfl, rfl, rfl, rfl, rfl, rfl, rfl, rfl, rfl, rfl, rfl, rfl, rfl, rfl, rfl, rfl⟩

@[simp] theorem setOpcode_fields (v : Byte) :
    (s.setOpcode v).a = s.a ∧ (s.setOpcode v).x = s.x ∧ (s.setOpcode v).y = s.y
    ∧ (s.setOpcode v).sp = s.sp ∧ (s.setOpcode v).pc = s.pc ∧ (s.setOpcode v).p = s.p
    ∧ (s.setOpcode v).fetched = s.fetched ∧ (s.setOpcode v).addrAbs = s.addrAbs ∧ (s.setOpcode v).addrRel = s.addrRel
    ∧ (s.setOpcode v).opcode = v ∧ (s.setOpcode v).cycles = s.cycles ∧ (s.setOpcode v).ram = s.ram
    ∧ (s.setOpcode v).sysclk = s.sysclk ∧ (s.setOpcode v).nametable0 = s.nametable0 ∧ (s.setOpcode v).nametable1 = s.nametable1
    ∧ (s.setOpcode v).palette = s.palette ∧ (s.setOpcode v).scanline = s.scanline ∧ (s.setOpcode v).cycle = s.cycle
    ∧ (s.setOpcode v).frameComplete = s.frameComplete ∧ (s.setOpcode v).cart = s.cart ∧ (s.setOpcode v).events = s.events
    ∧ (s.setOpcode v).params = s.params ∧ (s.setOpcode v).phase = s.phase ∧ (s.setOpcode v).freeCount = s.freeCount
    ∧ (s.setOpcode v).driver = s.driver ∧ (s.setOpcode v).reply = s.reply := by
  refine ⟨rfl, rfl, rfl, rfl, rfl, rfl, rfl, rfl, rfl, rfl, rfl, rfl, rfl, rfl, rfl, rfl, rfl, rfl, rfl, rfl, rfl, rfl, rfl, rfl, rfl, rfl⟩

@[simp] theorem setCycles_fields (v : Byte) :
    (s.setCycles v).a = s.a ∧ (s.setCycles v).x = s.x ∧ (s.setCycles v).y = s.y
    ∧ (s.setCycles v).sp = s.sp ∧ (s.setCycles v).pc = s.pc ∧ (s.setCycles v).p = s.p
    ∧ (s.setCycles v).fetched = s.fetched ∧ (s.setCycles v).addrAbs = s.addrAbs ∧ (s.setCycles v).addrRel = s.addrRel
    ∧ (s.setCycles v).opcode = s.opcode ∧ (s.setCycles v).cycles = v ∧ (s.setCycles v).ram = s.ram
    ∧ (s.setCycles v).sysclk = s.sysclk ∧ (s.setCycles v).nametable0 = s.nametable0 ∧ (s.setCycles v).nametable1 = s.nametable1
    ∧ (s.setCycles v).palette = s.palette ∧ (s.setCycles v).scanline = s.scanline ∧ (s.setCycles v).cycle = s.cycle
    ∧ (s.setCycles v).frameComplete = s.frameComplete ∧ (s.setCycles v).cart = s.cart ∧ (s.setCycles v).events = s.events
    ∧ (s.setCycles v).params = s.params ∧ (s.setCycles v).phase = s.phase ∧ (s.setCycles v).freeCount = s.freeCount
    ∧ (s.setCycles v).driver = s.driver ∧ (s.setCycles v).reply = s.reply := by
  refine ⟨rfl, rfl, rfl, rfl, rfl, rfl, rfl, rfl, rfl, rfl, rfl, rfl, rfl, rfl, rfl, rfl, rfl, rfl, rfl, rfl, rfl, rfl, rfl, rfl, rfl, rfl⟩

@[simp] theorem setRam_fields (m : Memory) :
    (s.setRam m).a = s.a ∧ (s.setRam m).x = s.x ∧ (s.setRam m).y = s.y
    ∧ (s.setRam m).sp = s.sp ∧ (s.setRam m).pc = s.pc ∧ (s.setRam m).p = s.p
    ∧ (s.setRam m).fetched = s.fetched ∧ (s.setRam m).addrAbs = s.addrAbs ∧ (s.setRam m).addrRel = s.addrRel
    ∧ (s.setRam m).opcode = s.opcode ∧ (s.setRam m).cycles = s.cycles ∧ (s.setRam m).ram = m
    ∧ (s.setRam m).sysclk = s.sysclk ∧ (s.setRam m).nametable0 = s.nametable0 ∧ (s.setRam m).nametable1 = s.nametable1
    ∧ (s.setRam m).palette = s.palette ∧ (s.setRam m).scanline = s.scanline ∧ (s.setRam m).cycle = s.cycle
    ∧ (s.setRam m).frameComplete = s.frameComplete ∧ (s.setRam m).cart = s.cart ∧ (s.setRam m).events = s.events
    ∧ (s.setRam m).params = s.params ∧ (s.setRam m).phase = s.phase ∧ (s.setRam m).freeCount = s.freeCount
    ∧ (s.setRam m).driver = s.driver ∧ (s.setRam m).reply = s.reply := by
  refine ⟨rfl, rfl, rfl, rfl, rfl, rfl, rfl, rfl, rfl, rfl, rfl, rfl, rfl, rfl, rfl, rfl, rfl, rfl, rfl, rfl, rfl, rfl, rfl, rfl, rfl, rfl⟩

@[simp] theorem setSysclk_fields (n : Nat) :
    (s.setSysclk n).a = s.a ∧ (s.setSysclk n).x = s.x ∧ (s.setSysclk n).y = s.y
    ∧ (s.setSysclk n).sp = s.sp ∧ (s.setSysclk n).pc = s.pc ∧ (s.setSysclk n).p = s.p
    ∧ (s.setSysclk n).fetched = s.fetched ∧ (s.setSysclk n).addrAbs = s.addrAbs ∧ (s.setSysclk n).addrRel = s.addrRel
    ∧ (s.setSysclk n).opcode = s.opcode ∧ (s.setSysclk n).cycles = s.cycles ∧ (s.setSysclk n).ram = s.ram
    ∧ (s.setSysclk n).sysclk = n ∧ (s.setSysclk n).nametable0 = s.nametable0 ∧ (s.setSysclk n).nametable1 = s.nametable1
    ∧ (s.setSysclk n).palette = s.palette ∧ (s.setSysclk n).scanline = s.scanline ∧ (s.setSysclk n).cycle = s.cycle
    ∧ (s.setSysclk n).frameComplete = s.frameComplete ∧ (s.setSysclk n).cart = s.cart ∧ (s.setSysclk n).events = s.events
    ∧ (s.setSysclk n).params = s.params ∧ (s.setSysclk n).phase = s.phase ∧ (s.setSysclk n).freeCount = s.freeCount
    ∧ (s.setSysclk n).driver = s.driver ∧ (s.setSysclk n).reply = s.reply := by
  refine ⟨rfl, rfl, rfl, rfl, rfl, rfl, rfl, rfl, rfl, rfl, rfl, rfl, rfl, rfl, rfl, rfl, rfl, rfl, rfl, rfl, rfl, rfl, rfl, rfl, rfl, rfl⟩

@[simp] theorem setNametable0_fields (m : Memory) :
    (s.setNametable0 m).a = s.a ∧ (s.setNametable0 m).x = s.x ∧ (s.setNametable0 m).y = s.y
    ∧ (s.setNametable0 m).sp = s.sp ∧ (s.setNametable0 m).pc = s.pc ∧ (s.setNametable0 m).p = s.p
    ∧ (s.setNametable0 m).fetched = s.fetched ∧ (s.setNametable0 m).addrAbs = s.addrAbs ∧ (s.setNametable0 m).addrRel = s.addrRel
    ∧ (s.setNametable0 m).opcode = s.opcode ∧ (s.setNametable0 m).cycles = s.cycles ∧ (s.setNametable0 m).ram = s.ram
    ∧ (s.setNametable0 m).sysclk = s.sysclk ∧ (s.setNametable0 m).nametable0 = m ∧ (s.setNametable0 m).nametable1 = s.nametable1
    ∧ (s.setNametable0 m).palette = s.palette ∧ (s.setNametable0 m).scanline = s.scanline ∧ (s.setNametable0 m).cycle = s.cycle
    ∧ (s.setNametable0 m).frameComplete = s.frameComplete ∧ (s.setNametable0 m).cart = s.cart ∧ (s.setNametable0 m).events = s.events
    ∧ (s.setNametable0 m).params = s.params ∧ (s.setNametable0 m).phase = s.phase ∧ (s.setNametable0 m).freeCount = s.freeCount
    ∧ (s.setNametable0 m).driver = s.driver ∧ (s.setNametable0 m).reply = s.reply := by
  refine ⟨rfl, rfl, rfl, rfl, rfl, rfl, rfl, rfl, rfl, rfl, rfl, rfl, rfl, rfl, rfl, rfl, rfl, rfl, rfl, rfl, rfl, rfl, rfl, rfl, rfl, rfl⟩

@[simp] theorem setNametable1_fields (m : Memory) :
    (s.setNametable1 m).a = s.a ∧ (s.setNametable1 m).x = s.x ∧ (s.setNametable1 m).y = s.y
    ∧ (s.setNametable1 m).sp = s.sp ∧ (s.setNametable1 m).pc = s.pc ∧ (s.setNametable1 m).p = s.p
    ∧ (s.setNametable1 m).fetched = s.fetched ∧ (s.setNametable1 m).addrAbs = s.addrAbs ∧ (s.setNametable1 m).addrRel = s.addrRel
    ∧ (s.setNametable1 m).opcode = s.opcode ∧ (s.setNametable1 m).cycles = s.cycles ∧ (s.setNametable1 m).ram = s.ram
    ∧ (s.setNametable1 m).sysclk = s.sysclk ∧ (s.setNametable1 m).nametable0 = s.nametable0 ∧ (s.setNametable1 m).nametable1 = m
    ∧ (s.setNametable1 m).palette = s.palette ∧ (s.setNametable1 m).scanline = s.scanline ∧ (s.setNametable1 m).cycle = s.cycle
    ∧ (s.setNametable1 m).frameComplete = s.frameComplete ∧ (s.setNametable1 m).cart = s.cart ∧ (s.setNametable1 m).events = s.events
    ∧ (s.setNametable1 m).params = s.params ∧ (s.setNametable1 m).phase = s.phase ∧ (s.setNametable1 m).freeCount = s.freeCount
    ∧ (s.setNametable1 m).driver = s.driver ∧ (s.setNametable1 m).reply = s.reply := by
  refine ⟨rfl, rfl, rfl, rfl, rfl, rfl, rfl, rfl, rfl, rfl, rfl, rfl, rfl, rfl, rfl, rfl, rfl, rfl, rfl, rfl, rfl, rfl, rfl, rfl, rfl, rfl⟩

@[simp] theorem setPalette_fields (m : Memory) :
    (s.setPalette m).a = s.a ∧ (s.setPalette m).x = s.x ∧ (s.setPalette m).y = s.y
    ∧ (s.setPalette m).sp = s.sp ∧ (s.setPalette m).pc = s.pc ∧ (s.setPalette m).p = s.p
    ∧ (s.setPalette m).fetched = s.fetched ∧ (s.setPalette m).addrAbs = s.addrAbs ∧ (s.setPalette m).addrRel = s.addrRel
    ∧ (s.setPalette m).opcode = s.opcode ∧ (s.setPalette m).cycles = s.cycles ∧ (s.setPalette m).ram = s.ram
    ∧ (s.setPalette m).sysclk = s.sysclk ∧ (s.setPalette m).nametable0 = s.nametable0 ∧ (s.setPalette m).nametable1 = s.nametable1
    ∧ (s.setPalette m).palette = m ∧ (s.setPalette m).scanline = s.scanline ∧ (s.setPalette m).cycle = s.cycle
    ∧ (s.setPalette m).frameComplete = s.frameComplete ∧ (s.setPalette m).cart = s.cart ∧ (s.setPalette m).events = s.events
    ∧ (s.setPalette m).params = s.params ∧ (s.setPalette m).phase = s.phase ∧ (s.setPalette m).freeCount = s.freeCount
    ∧ (s.setPalette m).driver = s.driver ∧ (s.setPalette m).reply = s.reply := by
  refine ⟨rfl, rfl, rfl, rfl, rfl, rfl, rfl, rfl, rfl, rfl, rfl, rfl, rfl, rfl, rfl, rfl, rfl, rfl, rfl, rfl, rfl, rfl, rfl, rfl, rfl, rfl⟩

@[simp] theorem setPpuPosition_fields (l : Int) (d : Nat) :
    (s.setPpuPosition l d).a = s.a ∧ (s.setPpuPosition l d).x = s.x ∧ (s.setPpuPosition l d).y = s.y
    ∧ (s.setPpuPosition l d).sp = s.sp ∧ (s.setPpuPosition l d).pc = s.pc ∧ (s.setPpuPosition l d).p = s.p
    ∧ (s.setPpuPosition l d).fetched = s.fetched ∧ (s.setPpuPosition l d).addrAbs = s.addrAbs ∧ (s.setPpuPosition l d).addrRel = s.addrRel
    ∧ (s.setPpuPosition l d).opcode = s.opcode ∧ (s.setPpuPosition l d).cycles = s.cycles ∧ (s.setPpuPosition l d).ram = s.ram
    ∧ (s.setPpuPosition l d).sysclk = s.sysclk ∧ (s.setPpuPosition l d).nametable0 = s.nametable0 ∧ (s.setPpuPosition l d).nametable1 = s.nametable1
    ∧ (s.setPpuPosition l d).palette = s.palette ∧ (s.setPpuPosition l d).scanline = l ∧ (s.setPpuPosition l d).cycle = d
    ∧ (s.setPpuPosition l d).frameComplete = s.frameComplete ∧ (s.setPpuPosition l d).cart = s.cart ∧ (s.setPpuPosition l d).events = s.events
    ∧ (s.setPpuPosition l d).params = s.params ∧ (s.setPpuPosition l d).phase = s.phase ∧ (s.setPpuPosition l d).freeCount = s.freeCount
    ∧ (s.setPpuPosition l d).driver = s.driver ∧ (s.setPpuPosition l d).reply = s.reply := by
  refine ⟨rfl, rfl, rfl, rfl, rfl, rfl, rfl, rfl, rfl, rfl, rfl, rfl, rfl, rfl, rfl, rfl, rfl, rfl, rfl, rfl, rfl, rfl, rfl, rfl, rfl, rfl⟩

@[simp] theorem setFrameComplete_fields (b : Bool) :
    (s.setFrameComplete b).a = s.a ∧ (s.setFrameComplete b).x = s.x ∧ (s.setFrameComplete b).y = s.y
    ∧ (s.setFrameComplete b).sp = s.sp ∧ (s.setFrameComplete b).pc = s.pc ∧ (s.setFrameComplete b).p = s.p
    ∧ (s.setFrameComplete b).fetched = s.fetched ∧ (s.setFrameComplete b).addrAbs = s.addrAbs ∧ (s.setFrameComplete b).addrRel = s.addrRel
    ∧ (s.setFrameComplete b).opcode = s.opcode ∧ (s.setFrameComplete b).cycles = s.cycles ∧ (s.setFrameComplete b).ram = s.ram
    ∧ (s.setFrameComplete b).sysclk = s.sysclk ∧ (s.setFrameComplete b).nametable0 = s.nametable0 ∧ (s.setFrameComplete b).nametable1 = s.nametable1
    ∧ (s.setFrameComplete b).palette = s.palette ∧ (s.setFrameComplete b).scanline = s.scanline ∧ (s.setFrameComplete b).cycle = s.cycle
    ∧ (s.setFrameComplete b).frameComplete = b ∧ (s.setFrameComplete b).cart = s.cart ∧ (s.setFrameComplete b).events = s.events
    ∧ (s.setFrameComplete b).params = s.params ∧ (s.setFrameComplete b).phase = s.phase ∧ (s.setFrameComplete b).freeCount = s.freeCount
    ∧ (s.setFrameComplete b).driver = s.driver ∧ (s.setFrameComplete b).reply = s.reply := by
  refine ⟨rfl, rfl, rfl, rfl, rfl, rfl, rfl, rfl, rfl, rfl, rfl, rfl, rfl, rfl, rfl, rfl, rfl, rfl, rfl, rfl, rfl, rfl, rfl, rfl, rfl, rfl⟩

@[simp] theorem setCart_fields (c : Option Cartridge) :
    (s.setCart c).a = s.a ∧ (s.setCart c).x = s.x ∧ (s.setCart c).y = s.y
    ∧ (s.setCart c).sp = s.sp ∧ (s.setCart c).pc = s.pc ∧ (s.setCart c).p = s.p
    ∧ (s.setCart c).fetched = s.fetched ∧ (s.setCart c).addrAbs = s.addrAbs ∧ (s.setCart c).addrRel = s.addrRel
    ∧ (s.setCart c).opcode = s.opcode ∧ (s.setCart c).cycles = s.cycles ∧ (s.setCart c).ram = s.ram
    ∧ (s.setCart c).sysclk = s.sysclk ∧ (s.setCart c).nametable0 = s.nametable0 ∧ (s.setCart c).nametable1 = s.nametable1
    ∧ (s.setCart c).palette = s.palette ∧ (s.setCart c).scanline = s.scanline ∧ (s.setCart c).cycle = s.cycle
    ∧ (s.setCart c).frameComplete = s.frameComplete ∧ (s.setCart c).cart = c ∧ (s.setCart c).events = s.events
    ∧ (s.setCart c).params = s.params ∧ (s.setCart c).phase = s.phase ∧ (s.setCart c).freeCount = s.freeCount
    ∧ (s.setCart c).driver = s.driver ∧ (s.setCart c).reply = s.reply := by
  refine ⟨rfl, rfl, rfl, rfl, rfl, rfl, rfl, rfl, rfl, rfl, rfl, rfl, rfl, rfl, rfl, rfl, rfl, rfl, rfl, rfl, rfl, rfl, rfl, rfl, rfl, rfl⟩

@[simp] theorem report_fields (e : Event) :
    (s.report e).a = s.a ∧ (s.report e).x = s.x ∧ (s.report e).y = s.y
    ∧ (s.report e).sp = s.sp ∧ (s.report e).pc = s.pc ∧ (s.report e).p = s.p
    ∧ (s.report e).fetched = s.fetched ∧ (s.report e).addrAbs = s.addrAbs ∧ (s.report e).addrRel = s.addrRel
    ∧ (s.report e).opcode = s.opcode ∧ (s.report e).cycles = s.cycles ∧ (s.report e).ram = s.ram
    ∧ (s.report e).sysclk = s.sysclk ∧ (s.report e).nametable0 = s.nametable0 ∧ (s.report e).nametable1 = s.nametable1
    ∧ (s.report e).palette = s.palette ∧ (s.report e).scanline = s.scanline ∧ (s.report e).cycle = s.cycle
    ∧ (s.report e).frameComplete = s.frameComplete ∧ (s.report e).cart = s.cart ∧ (s.report e).events = s.events ++ [e]
    ∧ (s.report e).params = s.params ∧ (s.report e).phase = s.phase ∧ (s.report e).freeCount = s.freeCount
    ∧ (s.report e).driver = s.driver ∧ (s.report e).reply = s.reply := by
  refine ⟨rfl, rfl, rfl, rfl, rfl, rfl, rfl, rfl, rfl, rfl, rfl, rfl, rfl, rfl, rfl, rfl, rfl, rfl, rfl, rfl, rfl, rfl, rfl, rfl, rfl, rfl⟩

@[simp] theorem setPhase_fields (ph : Phase) :
    (s.setPhase ph).a = s.a ∧ (s.setPhase ph).x = s.x ∧ (s.setPhase ph).y = s.y
    ∧ (s.setPhase ph).sp = s.sp ∧ (s.setPhase ph).pc = s.pc ∧ (s.setPhase ph).p = s.p
    ∧ (s.setPhase ph).fetched = s.fetched ∧ (s.setPhase ph).addrAbs = s.addrAbs ∧ (s.setPhase ph).addrRel = s.addrRel
    ∧ (s.setPhase ph).opcode = s.opcode ∧ (s.setPhase ph).cycles = s.cycles ∧ (s.setPhase ph).ram = s.ram
    ∧ (s.setPhase ph).sysclk = s.sysclk ∧ (s.setPhase ph).nametable0 = s.nametable0 ∧ (s.setPhase ph).nametable1 = s.nametable1
    ∧ (s.setPhase ph).palette = s.palette ∧ (s.setPhase ph).scanline = s.scanline ∧ (s.setPhase ph).cycle = s.cycle
    ∧ (s.setPhase ph).frameComplete = s.frameComplete ∧ (s.setPhase ph).cart = s.cart ∧ (s.setPhase ph).events = s.events
    ∧ (s.setPhase ph).params = s.params ∧ (s.setPhase ph).phase = ph ∧ (s.setPhase ph).freeCount = s.freeCount
    ∧ (s.setPhase ph).driver = s.driver ∧ (s.setPhase ph).reply = s.reply := by
  refine ⟨rfl, rfl, rfl, rfl, rfl, rfl, rfl, rfl, rfl, rfl, rfl, rfl, rfl, rfl, rfl, rfl, rfl, rfl, rfl, rfl, rfl, rfl, rfl, rfl, rfl, rfl⟩

@[simp] theorem bumpFree_fields (n : Nat) :
    (s.bumpFree n).a = s.a ∧ (s.bumpFree n).x = s.x ∧ (s.bumpFree n).y = s.y
    ∧ (s.bumpFree n).sp = s.sp ∧ (s.bumpFree n).pc = s.pc ∧ (s.bumpFree n).p = s.p
    ∧ (s.bumpFree n).fetched = s.fetched ∧ (s.bumpFree n).addrAbs = s.addrAbs ∧ (s.bumpFree n).addrRel = s.addrRel
    ∧ (s.bumpFree n).opcode = s.opcode ∧ (s.bumpFree n).cycles = s.cycles ∧ (s.bumpFree n).ram = s.ram
    ∧ (s.bumpFree n).sysclk = s.sysclk ∧ (s.bumpFree n).nametable0 = s.nametable0 ∧ (s.bumpFree n).nametable1 = s.nametable1
    ∧ (s.bumpFree n).palette = s.palette ∧ (s.bumpFree n).scanline = s.scanline ∧ (s.bumpFree n).cycle = s.cycle
    ∧ (s.bumpFree n).frameComplete = s.frameComplete ∧ (s.bumpFree n).cart = s.cart ∧ (s.bumpFree n).events = s.events
    ∧ (s.bumpFree n).params = s.params ∧ (s.bumpFree n).phase = s.phase ∧ (s.bumpFree n).freeCount = s.freeCount + n
    ∧ (s.bumpFree n).driver = s.driver ∧ (s.bumpFree n).reply = s.reply := by
  refine ⟨rfl, rfl, rfl, rfl, rfl, rfl, rfl, rfl, rfl, rfl, rfl, rfl, rfl, rfl, rfl, rfl, rfl, rfl, rfl, rfl, rfl, rfl, rfl, rfl, rfl, rfl⟩

@[simp] theorem setDriver_fields (cs : List HostCall) :
    (s.setDriver cs).a = s.a ∧ (s.setDriver cs).x = s.x ∧ (s.setDriver cs).y = s.y
    ∧ (s.setDriver cs).sp = s.sp ∧ (s.setDriver cs).pc = s.pc ∧ (s.setDriver cs).p = s.p
    ∧ (s.setDriver cs).fetched = s.fetched ∧ (s.setDriver cs).addrAbs = s.addrAbs ∧ (s.setDriver cs).addrRel = s.addrRel
    ∧ (s.setDriver cs).opcode = s.opcode ∧ (s.setDriver cs).cycles = s.cycles ∧ (s.setDriver cs).ram = s.ram
    ∧ (s.setDriver cs).sysclk = s.sysclk ∧ (s.setDriver cs).nametable0 = s.nametable0 ∧ (s.setDriver cs).nametable1 = s.nametable1
    ∧ (s.setDriver cs).palette = s.palette ∧ (s.setDriver cs).scanline = s.scanline ∧ (s.setDriver cs).cycle = s.cycle
    ∧ (s.setDriver cs).frameComplete = s.frameComplete ∧ (s.setDriver cs).cart = s.cart ∧ (s.setDriver cs).events = s.events
    ∧ (s.setDriver cs).params = s.params ∧ (s.setDriver cs).phase = s.phase ∧ (s.setDriver cs).freeCount = s.freeCount
    ∧ (s.setDriver cs).driver = cs ∧ (s.setDriver cs).reply = s.reply := by
  refine ⟨rfl, rfl, rfl, rfl, rfl, rfl, rfl, rfl, rfl, rfl, rfl, rfl, rfl, rfl, rfl, rfl, rfl, rfl, rfl, rfl, rfl, rfl, rfl, rfl, rfl, rfl⟩

@[simp] theorem setReply_fields (r : Option Byte) :
    (s.setReply r).a = s.a ∧ (s.setReply r).x = s.x ∧ (s.setReply r).y = s.y
    ∧ (s.setReply r).sp = s.sp ∧ (s.setReply r).pc = s.pc ∧ (s.setReply r).p = s.p
    ∧ (s.setReply r).fetched = s.fetched ∧ (s.setReply r).addrAbs = s.addrAbs ∧ (s.setReply r).addrRel = s.addrRel
    ∧ (s.setReply r).opcode = s.opcode ∧ (s.setReply r).cycles = s.cycles ∧ (s.setReply r).ram = s.ram
    ∧ (s.setReply r).sysclk = s.sysclk ∧ (s.setReply r).nametable0 = s.nametable0 ∧ (s.setReply r).nametable1 = s.nametable1
    ∧ (s.setReply r).palette = s.palette ∧ (s.setReply r).scanline = s.scanline ∧ (s.setReply r).cycle = s.cycle
    ∧ (s.setReply r).frameComplete = s.frameComplete ∧ (s.setReply r).cart = s.cart ∧ (s.setReply r).events = s.events
    ∧ (s.setReply r).params = s.params ∧ (s.setReply r).phase = s.phase ∧ (s.setReply r).freeCount = s.freeCount
    ∧ (s.setReply r).driver = s.driver ∧ (s.setReply r).reply = r := by
  refine ⟨rfl, rfl, rfl, rfl, rfl, rfl, rfl, rfl, rfl, rfl, rfl, rfl, rfl, rfl, rfl, rfl, rfl, rfl, rfl, rfl, rfl, rfl, rfl, rfl, rfl, rfl⟩

end Sys2Proof.Machine.State
end

