-- ==== Sys2Proof/Laws/Flags.lean ====
section
/-! SUPPORT. What each flag computation does to each flag and register. -/

namespace Sys2Proof.Machine

variable (s : State)

/-! ## One flag -/

theorem mask_getLsbD (f g : Flag) : f.mask.getLsbD g.bit = decide (f = g) := by
  cases f <;> cases g <;> decide

theorem flag_bit_lt (f : Flag) : f.bit < 8 := by cases f <;> decide

/-- Writing a flag changes that flag and no other. -/
@[simp] theorem flag_setFlag (f g : Flag) (on : Bool) :
    (s.setFlag f on).flag g = if f = g then on else s.flag g := by
  have hm := mask_getLsbD f g
  have hb := flag_bit_lt g
  cases on <;> by_cases h : f = g <;> simp_all [State.setFlag, State.flag]

/-- Writing a flag changes no field but P. -/
@[simp] theorem setFlag_fields (f : Flag) (on : Bool) :
    (s.setFlag f on).a = s.a ∧ (s.setFlag f on).x = s.x ∧ (s.setFlag f on).y = s.y
    ∧ (s.setFlag f on).sp = s.sp ∧ (s.setFlag f on).pc = s.pc ∧ (s.setFlag f on).fetched = s.fetched
    ∧ (s.setFlag f on).addrAbs = s.addrAbs ∧ (s.setFlag f on).addrRel = s.addrRel ∧ (s.setFlag f on).opcode = s.opcode
    ∧ (s.setFlag f on).cycles = s.cycles ∧ (s.setFlag f on).ram = s.ram ∧ (s.setFlag f on).sysclk = s.sysclk
    ∧ (s.setFlag f on).nametable0 = s.nametable0 ∧ (s.setFlag f on).nametable1 = s.nametable1 ∧ (s.setFlag f on).palette = s.palette
    ∧ (s.setFlag f on).scanline = s.scanline ∧ (s.setFlag f on).cycle = s.cycle ∧ (s.setFlag f on).frameComplete = s.frameComplete
    ∧ (s.setFlag f on).cart = s.cart ∧ (s.setFlag f on).events = s.events ∧ (s.setFlag f on).params = s.params
    ∧ (s.setFlag f on).phase = s.phase ∧ (s.setFlag f on).freeCount = s.freeCount ∧ (s.setFlag f on).driver = s.driver
    ∧ (s.setFlag f on).reply = s.reply := by
  refine ⟨rfl, rfl, rfl, rfl, rfl, rfl, rfl, rfl, rfl, rfl, rfl, rfl, rfl, rfl, rfl, rfl, rfl, rfl, rfl, rfl, rfl, rfl, rfl, rfl, rfl⟩

/-- The updates that do not write P keep every flag. -/
@[simp] theorem flag_of_updates (f : Flag) :
    (∀ v : Byte, (s.setA v).flag f = s.flag f)
    ∧ (∀ v : Byte, (s.setX v).flag f = s.flag f)
    ∧ (∀ v : Byte, (s.setY v).flag f = s.flag f)
    ∧ (∀ v : Byte, (s.setSp v).flag f = s.flag f)
    ∧ (∀ v : Word, (s.setPc v).flag f = s.flag f)
    ∧ (∀ v : Byte, (s.setFetched v).flag f = s.flag f)
    ∧ (∀ v : Word, (s.setAddrAbs v).flag f = s.flag f)
    ∧ (∀ v : Word, (s.setAddrRel v).flag f = s.flag f)
    ∧ (∀ v : Byte, (s.setOpcode v).flag f = s.flag f)
    ∧ (∀ v : Byte, (s.setCycles v).flag f = s.flag f)
    ∧ (∀ m : Memory, (s.setRam m).flag f = s.flag f)
    ∧ (∀ n : Nat, (s.setSysclk n).flag f = s.flag f)
    ∧ (∀ b : Bool, (s.setFrameComplete b).flag f = s.flag f)
    ∧ (∀ e : Event, (s.report e).flag f = s.flag f)
    ∧ (∀ ph : Phase, (s.setPhase ph).flag f = s.flag f)
    ∧ (∀ n : Nat, (s.bumpFree n).flag f = s.flag f)
    ∧ (∀ cs : List HostCall, (s.setDriver cs).flag f = s.flag f)
    ∧ (∀ r : Option Byte, (s.setReply r).flag f = s.flag f)
    ∧ (∀ m : Memory, (s.setNametable0 m).flag f = s.flag f)
    ∧ (∀ m : Memory, (s.setNametable1 m).flag f = s.flag f)
    ∧ (∀ m : Memory, (s.setPalette m).flag f = s.flag f)
    ∧ (∀ c : Option Cartridge, (s.setCart c).flag f = s.flag f)
    ∧ (∀ l d, (s.setPpuPosition l d).flag f = s.flag f) := by
  refine ⟨fun _ => rfl, fun _ => rfl, fun _ => rfl, fun _ => rfl, fun _ => rfl, fun _ => rfl, fun _ => rfl, fun _ => rfl, fun _ => rfl, fun _ => rfl, fun _ => rfl, fun _ => rfl, fun _ => rfl, fun _ => rfl, fun _ => rfl, fun _ => rfl, fun _ => rfl, fun _ => rfl, fun _ => rfl, fun _ => rfl, fun _ => rfl, fun _ => rfl, fun _ _ => rfl⟩

/-- Writing P whole sets every flag from its bits. -/
@[simp] theorem flag_setP (v : Byte) (f : Flag) : (s.setP v).flag f = v.getLsbD f.bit := rfl

/-! ## Z and N -/

/-- `SetZN(v)` sets Z and N and keeps the other flags. -/
@[simp] theorem flag_setZN (v : Byte) (g : Flag) :
    (s.setZN v).flag g = if g = .z then decide (v = 0) else if g = .n then v.getLsbD 7 else s.flag g := by
  cases g <;> simp [State.setZN]

/-- `SetZN(v)` changes no field but P. -/
@[simp] theorem setZN_fields (v : Byte) :
    (s.setZN v).a = s.a ∧ (s.setZN v).x = s.x ∧ (s.setZN v).y = s.y
    ∧ (s.setZN v).sp = s.sp ∧ (s.setZN v).pc = s.pc ∧ (s.setZN v).fetched = s.fetched
    ∧ (s.setZN v).addrAbs = s.addrAbs ∧ (s.setZN v).addrRel = s.addrRel ∧ (s.setZN v).opcode = s.opcode
    ∧ (s.setZN v).cycles = s.cycles ∧ (s.setZN v).ram = s.ram ∧ (s.setZN v).sysclk = s.sysclk
    ∧ (s.setZN v).nametable0 = s.nametable0 ∧ (s.setZN v).nametable1 = s.nametable1 ∧ (s.setZN v).palette = s.palette
    ∧ (s.setZN v).scanline = s.scanline ∧ (s.setZN v).cycle = s.cycle ∧ (s.setZN v).frameComplete = s.frameComplete
    ∧ (s.setZN v).cart = s.cart ∧ (s.setZN v).events = s.events ∧ (s.setZN v).params = s.params
    ∧ (s.setZN v).phase = s.phase ∧ (s.setZN v).freeCount = s.freeCount ∧ (s.setZN v).driver = s.driver
    ∧ (s.setZN v).reply = s.reply := by
  refine ⟨rfl, rfl, rfl, rfl, rfl, rfl, rfl, rfl, rfl, rfl, rfl, rfl, rfl, rfl, rfl, rfl, rfl, rfl, rfl, rfl, rfl, rfl, rfl, rfl, rfl⟩

/-- Bit 7 of a byte says whether it is 128 or more. -/
theorem msb_eq (v : Byte) : v.getLsbD 7 = decide (128 ≤ v.toNat) := by
  have h := BitVec.msb_eq_decide v
  simpa [BitVec.msb_eq_getLsbD_last] using h

/-! ## The status byte -/

/-- What PLP and RTI load: bit 5 is 1, bit 4 is 0, the other bits are the byte's. -/
theorem restoredP_bit (v : Byte) (f : Flag) :
    (restoredP v).getLsbD f.bit = if f = .u then true else if f = .b then false else v.getLsbD f.bit := by
  cases f <;> simp [restoredP, Flag.bit]

end Sys2Proof.Machine
end

