-- ==== Sys2Proof/Laws/Memory.lean ====
section
/-! SUPPORT. Reading after writing a storage array, and that every operation keeps the canonical form. -/

namespace Sys2Proof.Machine.Memory

@[simp] theorem read_nil (k : Nat) : Memory.read [] k = Memory.unlisted := rfl

theorem read_cons (c : Host.Cell) (m : Memory) (k : Nat) :
    Memory.read (c :: m) k = if c.1 = k then c.2 else Memory.read m k := rfl

/-- An index that no cell has reads as unlisted. -/
theorem read_eq_unlisted (m : Memory) (k : Nat) (h : ∀ c ∈ m, c.1 ≠ k) : Memory.read m k = Memory.unlisted := by
  induction m with
  | nil => rfl
  | cons c rest ih =>
    rw [read_cons, if_neg (h c (by simp)), ih fun d hd => h d (by simp [hd])]

theorem read_listed (k : Nat) (v : Byte) (m : Memory) (j : Nat) (h : ∀ c ∈ m, c.1 ≠ k) :
    Memory.read (Memory.listed k v m) j = if j = k then v else Memory.read m j := by
  unfold Memory.listed
  by_cases hv : v = Memory.unlisted
  · by_cases hj : j = k
    · simp [hv, hj, read_eq_unlisted m k h]
    · simp [hv, hj]
  · simp [hv, read_cons, eq_comm]

theorem read_listed_other (k : Nat) (v : Byte) (m : Memory) (j : Nat) (h : j ≠ k) :
    Memory.read (Memory.listed k v m) j = Memory.read m j := by
  unfold Memory.listed
  split <;> simp [read_cons, Ne.symm h]

/-- A write leaves every other index alone. -/
theorem read_write_other (m : Memory) (k j : Nat) (v : Byte) (h : j ≠ k) :
    Memory.read (Memory.write m k v) j = Memory.read m j := by
  induction m with
  | nil => exact read_listed_other k v [] j h
  | cons c rest ih =>
    obtain ⟨i, b⟩ := c
    unfold Memory.write
    split
    · exact read_listed_other k v _ j h
    · split
      · rename_i hki
        rw [read_listed_other k v rest j h, read_cons, if_neg (by simp only; omega)]
      · rw [read_cons, read_cons, ih]

/-- A read after a write to the same index of a canonical memory gives the byte written. -/
theorem read_write_same (m : Memory) (k : Nat) (v : Byte) (hm : Memory.wf m) :
    Memory.read (Memory.write m k v) k = v := by
  induction m with
  | nil => exact (read_listed k v [] k (by simp)).trans (if_pos rfl)
  | cons c rest ih =>
    obtain ⟨i, b⟩ := c
    obtain ⟨hp, hu⟩ := hm
    rw [List.pairwise_cons] at hp
    unfold Memory.write
    split
    · rename_i hki
      rw [read_listed k v _ k, if_pos rfl]
      intro d hd
      rcases List.mem_cons.mp hd with rfl | hd
      · simp only; omega
      · have := hp.1 d hd
        simp only at this; omega
    · split
      · rename_i hki
        rw [read_listed k v _ k, if_pos rfl]
        intro d hd
        have := hp.1 d hd
        simp only at this; omega
      · rename_i h1 h2
        rw [read_cons, if_neg (by simp only; omega)]
        exact ih ⟨hp.2, fun d hd => hu d (by simp [hd])⟩

theorem read_write (m : Memory) (k j : Nat) (v : Byte) (hm : Memory.wf m) :
    Memory.read (Memory.write m k v) j = if j = k then v else Memory.read m j := by
  by_cases h : j = k
  · simp [h, read_write_same m k v hm]
  · simp [h, read_write_other m k j v h]

theorem mem_listed {k : Nat} {v : Byte} {m : Memory} {c : Host.Cell} (h : c ∈ Memory.listed k v m) :
    c = (k, v) ∨ c ∈ m := by
  unfold Memory.listed at h
  split at h
  · exact .inr h
  · exact List.mem_cons.mp h

/-- Every cell after a write is the written one or was there before. -/
theorem mem_write {m : Memory} {k : Nat} {v : Byte} {c : Host.Cell} (h : c ∈ Memory.write m k v) :
    c = (k, v) ∨ c ∈ m := by
  induction m with
  | nil => exact mem_listed h
  | cons d rest ih =>
    unfold Memory.write at h
    split at h
    · exact mem_listed h
    · split at h
      · exact (mem_listed h).imp id (List.mem_cons_of_mem _)
      · rcases List.mem_cons.mp h with rfl | h
        · exact .inr (by simp)
        · exact (ih h).imp id (List.mem_cons_of_mem _)

/-- Putting a cell before larger ones keeps the canonical form. -/
theorem wf_listed (k : Nat) (v : Byte) (m : Memory) (hm : Memory.wf m) (h : ∀ c ∈ m, k < c.1) :
    Memory.wf (Memory.listed k v m) := by
  unfold Memory.listed
  split
  · exact hm
  · rename_i hv
    refine ⟨List.pairwise_cons.mpr ⟨h, hm.1⟩, fun c hc => ?_⟩
    rcases List.mem_cons.mp hc with rfl | hc
    · exact hv
    · exact hm.2 c hc

/-- A write keeps the canonical form. -/
theorem wf_write (m : Memory) (k : Nat) (v : Byte) (hm : Memory.wf m) : Memory.wf (Memory.write m k v) := by
  induction m with
  | nil => exact wf_listed k v [] hm (by simp)
  | cons c rest ih =>
    obtain ⟨i, b⟩ := c
    have hp := List.pairwise_cons.mp hm.1
    have hrest : Memory.wf rest := ⟨hp.2, fun d hd => hm.2 d (by simp [hd])⟩
    unfold Memory.write
    split
    · rename_i hki
      refine wf_listed k v _ hm fun d hd => ?_
      rcases List.mem_cons.mp hd with rfl | hd
      · exact hki
      · exact lt_trans hki (hp.1 d hd)
    · split
      · rename_i hki
        exact wf_listed k v _ hrest fun d hd => hki ▸ hp.1 d hd
      · rename_i h1 h2
        refine ⟨List.pairwise_cons.mpr ⟨fun d hd => ?_, (ih hrest).1⟩, fun d hd => ?_⟩
        · rcases mem_write hd with rfl | hd
          · simp only; omega
          · exact hp.1 d hd
        · rcases List.mem_cons.mp hd with rfl | hd
          · exact hm.2 _ (by simp)
          · exact (ih hrest).2 d hd

/-- A write inside an array keeps it an array of the same size. -/
theorem fits_write {m : Memory} {n k : Nat} (v : Byte) (hm : Memory.fits m n) (hk : k < n) :
    Memory.fits (Memory.write m k v) n :=
  ⟨wf_write m k v hm.1, fun c hc => (mem_write hc).elim (fun e => e ▸ hk) (hm.2 c)⟩

/-- The empty memory is an array of any size. -/
theorem fits_nil (n : Nat) : Memory.fits [] n := ⟨⟨.nil, by simp⟩, by simp⟩

/-- Loading a byte list gives an array of its length. -/
theorem fits_ofBytesFrom (bs : List Byte) (k : Nat) :
    Memory.fits (Memory.ofBytesFrom k bs) (k + bs.length) ∧ ∀ c ∈ Memory.ofBytesFrom k bs, k ≤ c.1 := by
  induction bs generalizing k with
  | nil => exact ⟨fits_nil _, by simp [Memory.ofBytesFrom]⟩
  | cons b rest ih =>
    obtain ⟨⟨hwf, hlt⟩, hge⟩ := ih (k + 1)
    simp only [List.length_cons]
    refine ⟨⟨wf_listed k b _ hwf fun c hc => by have := hge c hc; omega, fun c hc => ?_⟩, fun c hc => ?_⟩
    · rcases mem_listed hc with rfl | hc
      · simp only; omega
      · have := hlt c hc; omega
    · rcases mem_listed hc with rfl | hc
      · simp only; omega
      · have := hge c hc; omega

theorem fits_ofBytes (bs : List Byte) : Memory.fits (Memory.ofBytes bs) bs.length := by
  simpa [Memory.ofBytes] using (fits_ofBytesFrom bs 0).1

/-- A loaded byte list reads back byte by byte. -/
theorem read_ofBytesFrom (bs : List Byte) (k j : Nat) :
    Memory.read (Memory.ofBytesFrom k bs) (k + j) = bs.getD j Memory.unlisted := by
  induction bs generalizing k j with
  | nil => simp [Memory.ofBytesFrom]
  | cons b rest ih =>
    have hge := (fits_ofBytesFrom rest (k + 1)).2
    rw [Memory.ofBytesFrom, read_listed _ _ _ _ fun c hc => by have := hge c hc; omega]
    cases j with
    | zero => simp
    | succ j =>
      rw [if_neg (by omega), show k + (j + 1) = k + 1 + j by omega, ih]
      simp

theorem read_ofBytes (bs : List Byte) (j : Nat) : Memory.read (Memory.ofBytes bs) j = bs.getD j Memory.unlisted := by
  simpa [Memory.ofBytes] using read_ofBytesFrom bs 0 j

theorem fits_mono {m : Memory} {n n' : Nat} (h : Memory.fits m n) (hn : n ≤ n') : Memory.fits m n' :=
  ⟨h.1, fun c hc => lt_of_lt_of_le (h.2 c hc) hn⟩


end Sys2Proof.Machine.Memory
end

