-- ==== Sys2Proof/Laws/Ops.lean ====
section
/-! SUPPORT. What every Bus access, stack operation and interrupt entry does, in one equation each. -/

namespace Sys2Proof.Machine

/-! ## Byte order -/

theorem toNat_word16 (h l : Byte) : (word16 h l).toNat = h.toNat * 256 + l.toNat := by
  have hl := l.isLt
  rw [word16, BitVec.toNat_append, Nat.shiftLeft_eq, show (2 : Nat) ^ 8 = 256 by rfl,
    Nat.mul_comm, ← Nat.two_pow_add_eq_or_of_lt (i := 8) (by simpa using hl)]

@[simp] theorem toNat_zext16 (b : Byte) : (zext16 b).toNat = b.toNat := by
  have := b.isLt
  simp [zext16]; omega

theorem toNat_loByte (w : Word) : (loByte w).toNat = w.toNat % 256 := by simp [loByte]

theorem toNat_hiByte (w : Word) : (hiByte w).toNat = w.toNat / 256 := by
  have := w.isLt
  simp [hiByte, Nat.shiftRight_eq_div_pow]; omega

/-- The pages and offsets of an assembled word are its bytes. -/
@[simp] theorem hiByte_word16 (h l : Byte) : hiByte (word16 h l) = h := by
  apply BitVec.eq_of_toNat_eq
  have := l.isLt
  rw [toNat_hiByte, toNat_word16]; omega

@[simp] theorem loByte_word16 (h l : Byte) : loByte (word16 h l) = l := by
  apply BitVec.eq_of_toNat_eq
  have := l.isLt
  rw [toNat_loByte, toNat_word16]; omega

@[simp] theorem word16_hi_lo (w : Word) : word16 (hiByte w) (loByte w) = w := by
  apply BitVec.eq_of_toNat_eq
  rw [toNat_word16, toNat_hiByte, toNat_loByte]; omega

/-! ## The cartridge -/

/-- Mapper 000 claims nothing below 0x8000 (R50). -/
theorem cartReadOffset_low {addr : Word} {s : State} (h : addr.toNat < 0x8000) : cartReadOffset addr s = none := by
  have hn : ¬ 0x8000 ≤ addr.toNat := by omega
  unfold cartReadOffset
  split
  · rfl
  · split
    · rfl
    · rename_i m _
      cases m
      simp [cpuMapRead, hn]

/-- A write is claimed exactly where a read is (R51). -/
theorem cartClaimsWrite_eq (addr : Word) (s : State) : cartClaimsWrite addr s = (cartReadOffset addr s).isSome := by
  unfold cartClaimsWrite cartReadOffset
  cases s.cart with
  | none => rfl
  | some c =>
    simp only
    cases cartMapper c with
    | none => rfl
    | some m =>
      cases m with
      | m000 banks chr =>
        simp only [cpuMapWrite]
        cases cpuMapRead (.m000 banks chr) addr <;> rfl

theorem cartCpuRead_low {addr : Word} {s : State} (h : addr.toNat < 0x8000) : cartCpuRead addr s = none := by
  simp [cartCpuRead, cartReadOffset_low h]

theorem cartClaimsWrite_low {addr : Word} {s : State} (h : addr.toNat < 0x8000) : cartClaimsWrite addr s = false := by
  simp [cartClaimsWrite_eq, cartReadOffset_low h]

/-- The RAM index is the address modulo 0x0800 (R43). -/
theorem ramIndex_eq (addr : Word) : ramIndex addr = addr.toNat % 0x800 := by
  have := Nat.and_two_pow_sub_one_eq_mod addr.toNat 11
  simpa [ramIndex] using this

/-! ## Reading -/

/-- What is stored in the RAM window. -/
theorem peek_ram {addr : Word} {s : State} (h : addr.toNat < 0x2000) :
    peek addr s = some (s.ram.read (addr.toNat % 0x800)) := by
  rw [peek, cartCpuRead_low (by omega)]
  simp only [if_pos (show addr.toNat ≤ 0x1FFF by omega), ramIndex_eq]

/-- A PPU register has no storage. -/
theorem peek_ppu {addr : Word} {s : State} (h : 0x2000 ≤ addr.toNat) (h' : addr.toNat < 0x4000) :
    peek addr s = none := by
  rw [peek, cartCpuRead_low (by omega)]
  simp only [if_neg (show ¬ addr.toNat ≤ 0x1FFF by omega), if_pos (show addr.toNat ≤ 0x3FFF by omega)]

/-- Outside the PPU window every address has a value. -/
theorem peek_isSome_of_ge {addr : Word} {s : State} (h : 0x4000 ≤ addr.toNat) : ∃ v, peek addr s = some v := by
  unfold peek
  split
  · exact ⟨_, rfl⟩
  · rw [if_neg (by omega), if_neg (by omega)]
    exact ⟨_, rfl⟩

/-- The stored byte depends only on RAM, the cartridge and the unmapped value. -/
theorem peek_congr {s t : State} (hr : t.ram = s.ram) (hc : t.cart = s.cart) (hp : t.params = s.params) (addr : Word) :
    peek addr t = peek addr s := by
  simp [peek, cartCpuRead, cartReadOffset, hr, hc, hp]

/-- The updates of the registers, the transient fields and the counters change no stored byte. -/
@[simp] theorem peek_of_updates (addr : Word) (s : State) :
    (∀ v : Byte, peek addr (s.setA v) = peek addr s)
    ∧ (∀ v : Byte, peek addr (s.setX v) = peek addr s)
    ∧ (∀ v : Byte, peek addr (s.setY v) = peek addr s)
    ∧ (∀ v : Byte, peek addr (s.setSp v) = peek addr s)
    ∧ (∀ v : Word, peek addr (s.setPc v) = peek addr s)
    ∧ (∀ v : Byte, peek addr (s.setP v) = peek addr s)
    ∧ (∀ v : Byte, peek addr (s.setFetched v) = peek addr s)
    ∧ (∀ v : Word, peek addr (s.setAddrAbs v) = peek addr s)
    ∧ (∀ v : Word, peek addr (s.setAddrRel v) = peek addr s)
    ∧ (∀ v : Byte, peek addr (s.setOpcode v) = peek addr s)
    ∧ (∀ v : Byte, peek addr (s.setCycles v) = peek addr s)
    ∧ (∀ n : Nat, peek addr (s.setSysclk n) = peek addr s)
    ∧ (∀ b : Bool, peek addr (s.setFrameComplete b) = peek addr s)
    ∧ (∀ e : Event, peek addr (s.report e) = peek addr s)
    ∧ (∀ ph : Phase, peek addr (s.setPhase ph) = peek addr s)
    ∧ (∀ n : Nat, peek addr (s.bumpFree n) = peek addr s)
    ∧ (∀ cs : List HostCall, peek addr (s.setDriver cs) = peek addr s)
    ∧ (∀ r : Option Byte, peek addr (s.setReply r) = peek addr s)
    ∧ (∀ f on, peek addr (s.setFlag f on) = peek addr s) := by
  refine ⟨fun _ => rfl, fun _ => rfl, fun _ => rfl, fun _ => rfl, fun _ => rfl, fun _ => rfl, fun _ => rfl, fun _ => rfl, fun _ => rfl, fun _ => rfl, fun _ => rfl, fun _ => rfl, fun _ => rfl, fun _ => rfl, fun _ => rfl, fun _ => rfl, fun _ => rfl, fun _ => rfl, fun _ _ => rfl⟩

/-- The byte a CPU read gives. -/
def readByte (addr : Word) (s : State) : Byte := (peek addr s).getD (Config.freeByte s.freeCount)

/-- How many free values a CPU read uses. -/
def readFree (addr : Word) (s : State) : Nat := if (peek addr s).isSome then 0 else 1

/-- A Bus read, whatever `readOnly` is: the stored byte, or a free value for a PPU register. -/
theorem busRead_eq (addr : Word) (ro : Bool) (s : State) :
    busRead addr ro s = (readByte addr s, s.bumpFree (readFree addr s)) := by
  have h0 : s.bumpFree 0 = s := rfl
  unfold busRead readByte readFree peek
  cases cartCpuRead addr s with
  | some v => simp [h0]
  | none =>
    by_cases h1 : addr.toNat ≤ 0x1FFF
    · simp [h1, h0]
    · by_cases h2 : addr.toNat ≤ 0x3FFF
      · simp [h1, h2, ppuRegRead]
      · simp [h1, h2, h0]

@[simp] theorem memRead_eq (addr : Word) (s : State) :
    memRead addr s = (readByte addr s, s.bumpFree (readFree addr s)) := busRead_eq addr false s

theorem readByte_of_peek {addr : Word} {s : State} {v : Byte} (h : peek addr s = some v) : readByte addr s = v := by
  simp [readByte, h]

theorem readFree_of_peek {addr : Word} {s : State} {v : Byte} (h : peek addr s = some v) : readFree addr s = 0 := by
  simp [readFree, h]

@[simp] theorem bumpFree_zero (s : State) : s.bumpFree 0 = s := rfl

@[simp] theorem bumpFree_bumpFree (s : State) (m n : Nat) : (s.bumpFree m).bumpFree n = s.bumpFree (m + n) := by
  simp [State.bumpFree, Nat.add_assoc]

/-! ## Writing -/

/-- The RAM after a CPU write. -/
def ramAfter (addr : Word) (v : Byte) (s : State) : Memory :=
  if addr.toNat < 0x2000 then s.ram.write (addr.toNat % 0x800) v else s.ram

/-- A Bus write changes RAM in the RAM window and nothing anywhere else. -/
theorem busWrite_eq (addr : Word) (v : Byte) (s : State) : busWrite addr v s = s.setRam (ramAfter addr v s) := by
  have h0 : s.setRam s.ram = s := rfl
  unfold busWrite ramAfter
  by_cases h1 : addr.toNat < 0x2000
  · rw [cartClaimsWrite_low (by omega), if_pos (show addr.toNat ≤ 0x1FFF by omega), if_pos h1, ramIndex_eq]
    rfl
  · rw [if_neg (show ¬ addr.toNat ≤ 0x1FFF by omega), if_neg h1, h0]
    simp [ppuRegWrite]

@[simp] theorem memWrite_eq (addr : Word) (v : Byte) (s : State) :
    memWrite addr v s = s.setRam (ramAfter addr v s) := busWrite_eq addr v s

/-- A CPU write keeps RAM an array of 2048 bytes. -/
theorem fits_ramAfter {s : State} (addr : Word) (v : Byte) (h : Memory.fits s.ram 2048) :
    Memory.fits (ramAfter addr v s) 2048 := by
  unfold ramAfter
  split
  · exact Memory.fits_write v h (Nat.mod_lt _ (by decide))
  · exact h

/-! ## Stack -/

theorem toNat_stackSlot (sp : Byte) : (stackSlot sp).toNat = 0x100 + sp.toNat := by
  have := sp.isLt
  simp [stackSlot, BitVec.toNat_add]; omega

/-- The stack slot is RAM byte 0x100 + SP. -/
theorem peek_stackSlot (sp : Byte) (s : State) : peek (stackSlot sp) s = some (s.ram.read (0x100 + sp.toNat)) := by
  have := sp.isLt
  rw [peek_ram (by rw [toNat_stackSlot]; omega), toNat_stackSlot, Nat.mod_eq_of_lt (by omega)]

/-- The RAM after a push. -/
def pushed (sp v : Byte) (m : Memory) : Memory := m.write (0x100 + sp.toNat) v

/-- `Push(v)` writes RAM byte 0x100 + SP and decrements SP. -/
@[simp] theorem push_eq (v : Byte) (s : State) : push v s = (s.setRam (pushed s.sp v s.ram)).setSp (s.sp - 1) := by
  have := s.sp.isLt
  simp only [push, memWrite_eq, ramAfter, toNat_stackSlot, pushed]
  rw [if_pos (by omega), Nat.mod_eq_of_lt (by omega)]

/-- `Pull()` increments SP and reads RAM byte 0x100 + SP. -/
@[simp] theorem pull_eq (s : State) :
    pull s = (s.ram.read (0x100 + (s.sp + 1).toNat), s.setSp (s.sp + 1)) := by
  have h := peek_stackSlot (s.sp + 1) (s.setSp (s.sp + 1))
  rw [pull, memRead_eq, readByte_of_peek h, readFree_of_peek h]
  rfl

@[simp] theorem pullWord_eq (s : State) :
    pullWord s = (word16 (s.ram.read (0x100 + (s.sp + 2).toNat)) (s.ram.read (0x100 + (s.sp + 1).toNat)),
      s.setSp (s.sp + 2)) := by
  have h : s.sp + 1 + 1 = s.sp + 2 := by rw [BitVec.add_assoc]; rfl
  simp only [pullWord, pull_eq, State.setSp_fields, h]
  rfl

@[simp] theorem pushWord_eq (w : Word) (s : State) :
    pushWord w s = (s.setRam (pushed (s.sp - 1) (loByte w) (pushed s.sp (hiByte w) s.ram))).setSp (s.sp - 2) := by
  have h : s.sp - 1 - 1 = s.sp - 2 := by rw [BitVec.sub_sub]; rfl
  simp only [pushWord, push_eq, State.setSp_fields, State.setRam_fields, h]
  rfl

/-- The stack holds its bytes at distinct places: a push reads back, and leaves the other slots. -/
theorem read_pushed (m : Memory) (sp v sp' : Byte) (hm : Memory.wf m) :
    Memory.read (pushed sp v m) (0x100 + sp'.toNat) = if sp' = sp then v else Memory.read m (0x100 + sp'.toNat) := by
  rw [pushed, Memory.read_write _ _ _ _ hm]
  by_cases h : sp' = sp
  · simp [h]
  · have : sp'.toNat ≠ sp.toNat := fun e => h (BitVec.eq_of_toNat_eq e)
    rw [if_neg (by omega), if_neg h]

theorem fits_pushed {m : Memory} (sp v : Byte) (hm : Memory.fits m 2048) : Memory.fits (pushed sp v m) 2048 := by
  have := sp.isLt
  exact Memory.fits_write v hm (by omega)

/-! ## Vectors and interrupt entry -/

/-- Two reads of addresses with storage give the stored bytes and change nothing. -/
theorem memReadPair_of_peek {a b : Word} {s : State} {l h : Byte} (hl : peek a s = some l) (hh : peek b s = some h) :
    memReadPair a b s = (word16 h l, s) := by
  simp [memReadPair, readByte_of_peek hl, readFree_of_peek hl, readByte_of_peek hh, readFree_of_peek hh]

/-- The address stored at a vector. -/
def vectorTarget (vector : Word) (s : State) : Word :=
  word16 ((peek (vector + 1) s).getD 0) ((peek vector s).getD 0)

/-- Reading a vector changes nothing: all three lie above the PPU window. -/
theorem readVector_eq {vector : Word} (hv : 0x4000 ≤ vector.toNat) (hv' : 0x4000 ≤ (vector + 1).toNat) (s : State) :
    readVector vector s = (vectorTarget vector s, s) := by
  obtain ⟨l, hl⟩ := peek_isSome_of_ge (s := s) hv
  obtain ⟨h, hh⟩ := peek_isSome_of_ge (s := s) hv'
  rw [readVector, memReadPair_of_peek hl hh, vectorTarget, hl, hh]
  rfl

theorem peek_highRam (addr : Word) (s : State) (m : Memory) (h : 0x2000 ≤ addr.toNat) :
    peek addr (s.setRam m) = peek addr s := by
  simp only [peek, cartCpuRead, cartReadOffset, State.setRam_fields, if_neg (show ¬ addr.toNat ≤ 0x1FFF by omega)]

end Sys2Proof.Machine
end

