-- ==== Sys2Proof/Laws/Operands.lean ====
section
/-! SUPPORT. What the addressing modes, the data fetch and the write-back do, and what they leave alone. -/

namespace Sys2Proof.Machine

variable (s : State)

/-! ## Fields left alone -/

/-- An addressing mode writes only `fetched`, `addr_abs`, `addr_rel` and uses free values. -/
@[simp] theorem addrMode_fields (o : Operand) :
    ((addrMode o s).2).a = s.a ∧ ((addrMode o s).2).x = s.x ∧ ((addrMode o s).2).y = s.y
    ∧ ((addrMode o s).2).sp = s.sp ∧ ((addrMode o s).2).pc = s.pc ∧ ((addrMode o s).2).p = s.p
    ∧ ((addrMode o s).2).opcode = s.opcode ∧ ((addrMode o s).2).cycles = s.cycles ∧ ((addrMode o s).2).ram = s.ram
    ∧ ((addrMode o s).2).sysclk = s.sysclk ∧ ((addrMode o s).2).nametable0 = s.nametable0 ∧ ((addrMode o s).2).nametable1 = s.nametable1
    ∧ ((addrMode o s).2).palette = s.palette ∧ ((addrMode o s).2).scanline = s.scanline ∧ ((addrMode o s).2).cycle = s.cycle
    ∧ ((addrMode o s).2).frameComplete = s.frameComplete ∧ ((addrMode o s).2).cart = s.cart ∧ ((addrMode o s).2).events = s.events
    ∧ ((addrMode o s).2).params = s.params ∧ ((addrMode o s).2).phase = s.phase ∧ ((addrMode o s).2).driver = s.driver
    ∧ ((addrMode o s).2).reply = s.reply := by
  cases o <;> simp [addrMode, indexed, zeroPagePointer, memReadPair]

/-- The data fetch writes only `fetched` and uses free values. -/
@[simp] theorem operandByte_fields (o : Operand) :
    ((operandByte o s).2).a = s.a ∧ ((operandByte o s).2).x = s.x ∧ ((operandByte o s).2).y = s.y
    ∧ ((operandByte o s).2).sp = s.sp ∧ ((operandByte o s).2).pc = s.pc ∧ ((operandByte o s).2).p = s.p
    ∧ ((operandByte o s).2).addrAbs = s.addrAbs ∧ ((operandByte o s).2).addrRel = s.addrRel ∧ ((operandByte o s).2).opcode = s.opcode
    ∧ ((operandByte o s).2).cycles = s.cycles ∧ ((operandByte o s).2).ram = s.ram ∧ ((operandByte o s).2).sysclk = s.sysclk
    ∧ ((operandByte o s).2).nametable0 = s.nametable0 ∧ ((operandByte o s).2).nametable1 = s.nametable1 ∧ ((operandByte o s).2).palette = s.palette
    ∧ ((operandByte o s).2).scanline = s.scanline ∧ ((operandByte o s).2).cycle = s.cycle ∧ ((operandByte o s).2).frameComplete = s.frameComplete
    ∧ ((operandByte o s).2).cart = s.cart ∧ ((operandByte o s).2).events = s.events ∧ ((operandByte o s).2).params = s.params
    ∧ ((operandByte o s).2).phase = s.phase ∧ ((operandByte o s).2).driver = s.driver ∧ ((operandByte o s).2).reply = s.reply := by
  cases o <;> simp [operandByte]

/-- The write-back writes only A or RAM. -/
@[simp] theorem writeback_fields (o : Operand) (r : Byte) :
    (writeback o r s).x = s.x ∧ (writeback o r s).y = s.y ∧ (writeback o r s).sp = s.sp
    ∧ (writeback o r s).pc = s.pc ∧ (writeback o r s).p = s.p ∧ (writeback o r s).fetched = s.fetched
    ∧ (writeback o r s).addrAbs = s.addrAbs ∧ (writeback o r s).addrRel = s.addrRel ∧ (writeback o r s).opcode = s.opcode
    ∧ (writeback o r s).cycles = s.cycles ∧ (writeback o r s).sysclk = s.sysclk ∧ (writeback o r s).nametable0 = s.nametable0
    ∧ (writeback o r s).nametable1 = s.nametable1 ∧ (writeback o r s).palette = s.palette ∧ (writeback o r s).scanline = s.scanline
    ∧ (writeback o r s).cycle = s.cycle ∧ (writeback o r s).frameComplete = s.frameComplete ∧ (writeback o r s).cart = s.cart
    ∧ (writeback o r s).events = s.events ∧ (writeback o r s).params = s.params ∧ (writeback o r s).phase = s.phase
    ∧ (writeback o r s).freeCount = s.freeCount ∧ (writeback o r s).driver = s.driver ∧ (writeback o r s).reply = s.reply := by
  cases o <;> simp [writeback]

/-- Assigning the cycle count writes only `cycles`. -/
@[simp] theorem charge_fields (i : Instr) (a b : Bool) (e : Byte) :
    (charge i a b e s).a = s.a ∧ (charge i a b e s).x = s.x ∧ (charge i a b e s).y = s.y
    ∧ (charge i a b e s).sp = s.sp ∧ (charge i a b e s).pc = s.pc ∧ (charge i a b e s).p = s.p
    ∧ (charge i a b e s).fetched = s.fetched ∧ (charge i a b e s).addrAbs = s.addrAbs ∧ (charge i a b e s).addrRel = s.addrRel
    ∧ (charge i a b e s).opcode = s.opcode ∧ (charge i a b e s).ram = s.ram ∧ (charge i a b e s).sysclk = s.sysclk
    ∧ (charge i a b e s).nametable0 = s.nametable0 ∧ (charge i a b e s).nametable1 = s.nametable1 ∧ (charge i a b e s).palette = s.palette
    ∧ (charge i a b e s).scanline = s.scanline ∧ (charge i a b e s).cycle = s.cycle ∧ (charge i a b e s).frameComplete = s.frameComplete
    ∧ (charge i a b e s).cart = s.cart ∧ (charge i a b e s).events = s.events ∧ (charge i a b e s).params = s.params
    ∧ (charge i a b e s).phase = s.phase ∧ (charge i a b e s).freeCount = s.freeCount ∧ (charge i a b e s).driver = s.driver
    ∧ (charge i a b e s).reply = s.reply := by
  simp [charge]

theorem charge_cycles (i : Instr) (a b : Bool) (e : Byte) :
    (charge i a b e s).cycles = i.baseCycles + (if a && b then 1 else 0) + e := rfl

/-- None of them changes a flag. -/
@[simp] theorem flag_of_operands (f : Flag) :
    (∀ o, (addrMode o s).2.flag f = s.flag f) ∧ (∀ o, (operandByte o s).2.flag f = s.flag f)
    ∧ (∀ o r, (writeback o r s).flag f = s.flag f) ∧ (∀ i a b e, (charge i a b e s).flag f = s.flag f) := by
  simp [State.flag]

end Sys2Proof.Machine
end

