-- ==== Sys2Proof/Laws/Frame.lean ====
section
/-! SUPPORT. Frames compose: the frame of each shared operation, said once, and what memory holds after it. -/

namespace Sys2Proof.Machine

/-! ## Composing frames -/

theorem SameOutside.refl (s : State) : SameOutside s s := by constructor <;> rfl

theorem SameOutside.trans {s t u : State} (h : SameOutside s t) (k : SameOutside t u) : SameOutside s u := by
  obtain ⟨⟩ := h
  obtain ⟨⟩ := k
  constructor <;> simp_all

theorem Frame.refl (s : State) : Frame [] [] s s := ⟨by simp, by simp, rfl, rfl, SameOutside.refl s⟩

theorem Frame.trans {rs rs' : List Reg} {fs fs' : List Flag} {s t u : State} (h : Frame rs fs s t)
    (k : Frame rs' fs' t u) : Frame (rs ++ rs') (fs ++ fs') s u where
  regs r hr := by
    rw [List.mem_append, not_or] at hr
    exact (k.regs r hr.2).trans (h.regs r hr.1)
  flags f hf := by
    rw [List.mem_append, not_or] at hf
    exact (k.flags f hf.2).trans (h.flags f hf.1)
  opcode := k.opcode.trans h.opcode
  events := k.events.trans h.events
  outside := h.outside.trans k.outside

theorem Frame.mono {rs rs' : List Reg} {fs fs' : List Flag} {s t : State} (h : Frame rs fs s t)
    (hr : rs ⊆ rs') (hf : fs ⊆ fs') : Frame rs' fs' s t :=
  ⟨fun r k => h.regs r fun m => k (hr m), fun f k => h.flags f fun m => k (hf m), h.opcode, h.events, h.outside⟩

theorem SameMemory.refl (s : State) : SameMemory s s := fun _ => rfl

theorem SameMemory.trans {s t u : State} (h : SameMemory s t) (k : SameMemory t u) : SameMemory s u :=
  fun a => (k a).trans (h a)

/-- Memory reads alike when RAM, the cartridge and the parameters are alike. -/
theorem sameMemory_of_ram {s t : State} (hr : t.ram = s.ram) (h : SameOutside s t) : SameMemory s t :=
  fun a => peek_congr hr h.cart h.params a

theorem Frame.sameMemory {rs : List Reg} {fs : List Flag} {s t : State} (h : Frame rs fs s t) (hr : t.ram = s.ram) :
    SameMemory s t := sameMemory_of_ram hr h.outside

/-! ## Frames of the register and flag updates -/

variable (s : State)

theorem frame_setA (v : Byte) : Frame [.a] [] s (s.setA v) := by
  refine ⟨fun r hr => ?_, by simp, rfl, rfl, by constructor <;> rfl⟩
  cases r <;> simp_all [State.reg]

theorem frame_setX (v : Byte) : Frame [.x] [] s (s.setX v) := by
  refine ⟨fun r hr => ?_, by simp, rfl, rfl, by constructor <;> rfl⟩
  cases r <;> simp_all [State.reg]

theorem frame_setY (v : Byte) : Frame [.y] [] s (s.setY v) := by
  refine ⟨fun r hr => ?_, by simp, rfl, rfl, by constructor <;> rfl⟩
  cases r <;> simp_all [State.reg]

theorem frame_setSp (v : Byte) : Frame [.sp] [] s (s.setSp v) := by
  refine ⟨fun r hr => ?_, by simp, rfl, rfl, by constructor <;> rfl⟩
  cases r <;> simp_all [State.reg]

theorem frame_setPc (v : Word) : Frame [] [] s (s.setPc v) :=
  ⟨fun r _ => by cases r <;> rfl, by simp, rfl, rfl, by constructor <;> rfl⟩

theorem frame_setAddrAbs (v : Word) : Frame [] [] s (s.setAddrAbs v) :=
  ⟨fun r _ => by cases r <;> rfl, by simp, rfl, rfl, by constructor <;> rfl⟩

theorem frame_setRam (m : Memory) : Frame [] [] s (s.setRam m) :=
  ⟨fun r _ => by cases r <;> rfl, by simp, rfl, rfl, by constructor <;> rfl⟩

theorem frame_setFlag (f : Flag) (b : Bool) : Frame [] [f] s (s.setFlag f b) := by
  refine ⟨fun r _ => by cases r <;> rfl, fun g hg => ?_, rfl, rfl, by constructor <;> rfl⟩
  rw [flag_setFlag, if_neg fun e => hg (by simp [e])]

theorem frame_setZN (v : Byte) : Frame [] [.z, .n] s (s.setZN v) :=
  (frame_setFlag s .z _).trans (frame_setFlag _ .n _)

/-- Writing P whole may change every flag and no register. -/
theorem frame_setP (v : Byte) : Frame [] [.c, .z, .i, .d, .b, .u, .v, .n] s (s.setP v) :=
  ⟨fun r _ => by cases r <;> rfl, fun f hf => by cases f <;> simp at hf, rfl, rfl, by constructor <;> rfl⟩

theorem frame_addToA (m : Byte) : Frame [.a] [.c, .v, .z, .n] s (addToA m s) :=
  (((frame_setFlag s .c _).trans (frame_setFlag _ .v _)).trans (frame_setA _ _)).trans (frame_setZN _ _)

theorem frame_compareWith (r m : Byte) : Frame [] [.c, .z, .n] s (compareWith r m s) :=
  ((frame_setFlag s .c _).trans (frame_setFlag _ .z _)).trans (frame_setFlag _ .n _)

theorem frame_bitTest (m : Byte) : Frame [] [.z, .n, .v] s (bitTest m s) :=
  ((frame_setFlag s .z _).trans (frame_setFlag _ .n _)).trans (frame_setFlag _ .v _)

theorem frame_shifted (r : Byte) (out : Bool) : Frame [] [.c, .z, .n] s (shifted r out s).2 :=
  (frame_setFlag s .c _).trans (frame_setZN _ _)

/-! ## Frames of the shared operations -/

theorem frame_memWrite (a : Word) (v : Byte) : Frame [] [] s (memWrite a v s) := by
  rw [memWrite_eq]; exact frame_setRam s _

theorem frame_push (v : Byte) : Frame [.sp] [] s (push v s) := by
  rw [push_eq]; exact (frame_setRam s _).trans (frame_setSp _ _)

theorem frame_pull : Frame [.sp] [] s (pull s).2 := by
  rw [pull_eq]; exact frame_setSp s _

theorem frame_pushWord (w : Word) : Frame [.sp] [] s (pushWord w s) := by
  rw [pushWord_eq]; exact (frame_setRam s _).trans (frame_setSp _ _)

theorem frame_pullWord : Frame [.sp] [] s (pullWord s).2 := by
  rw [pullWord_eq]; exact frame_setSp s _

/-- An addressing mode changes no register, no flag and no memory byte. -/
theorem frame_addrMode (o : Operand) : Frame [] [] s (addrMode o s).2 :=
  ⟨fun r _ => by cases r <;> simp [State.reg], by simp, by simp, by simp, by constructor <;> simp⟩

theorem frame_operandByte (o : Operand) : Frame [] [] s (operandByte o s).2 :=
  ⟨fun r _ => by cases r <;> simp [State.reg], by simp, by simp, by simp, by constructor <;> simp⟩

theorem frame_writeback (o : Operand) (r : Byte) : Frame [.a] [] s (writeback o r s) := by
  cases o with
  | imp => exact frame_setA s r
  | _ => exact (frame_memWrite s _ _).mono (by simp) (by simp)

theorem frame_charge (i : Instr) (a b : Bool) (e : Byte) : Frame [] [] s (charge i a b e s) :=
  ⟨fun r _ => by cases r <;> rfl, by simp, rfl, rfl, by constructor <;> rfl⟩

/-- Entry through a vector whose two bytes lie above the PPU window: three pushes, I as asked, PC from the vector. -/
theorem takeInterrupt_eq (resume : Word) (status : Byte) (setsI : Bool) (vector : Word)
    (hv : 0x4000 ≤ vector.toNat) (hv' : 0x4000 ≤ (vector + 1).toNat) :
    takeInterrupt resume status setsI vector s =
      (if setsI then ((push status (pushWord resume s)).setFlag .i true) else push status (pushWord resume s)).setPc
        (vectorTarget vector s) := by
  have hp : ∀ (u : State) (b : Byte), u.ram = u.ram → vectorTarget vector (u.setSp b) = vectorTarget vector u :=
    fun u b _ => by simp only [vectorTarget, peek_congr (t := u.setSp b) (s := u) rfl rfl rfl]
  have hr : ∀ (u : State) (m : Memory), vectorTarget vector (u.setRam m) = vectorTarget vector u := fun u m => by
    simp only [vectorTarget, peek_highRam _ u m (by omega : 0x2000 ≤ vector.toNat),
      peek_highRam _ u m (by omega : 0x2000 ≤ (vector + 1).toNat)]
  have hf : ∀ u : State, vectorTarget vector (u.setFlag .i true) = vectorTarget vector u := fun u => by
    simp only [vectorTarget, peek_congr (t := u.setFlag .i true) (s := u) rfl rfl rfl]
  have hq : vectorTarget vector (push status (pushWord resume s)) = vectorTarget vector s := by
    rw [push_eq, hp _ _ rfl, hr, pushWord_eq, hp _ _ rfl, hr]
  cases setsI <;> simp only [takeInterrupt, readVector_eq hv hv', hf, hq, if_true, Bool.false_eq_true, if_false]

theorem frame_takeInterrupt (resume : Word) (status : Byte) (setsI : Bool) (vector : Word)
    (hv : 0x4000 ≤ vector.toNat) (hv' : 0x4000 ≤ (vector + 1).toNat) :
    Frame [.sp] [.i] s (takeInterrupt resume status setsI vector s) := by
  rw [takeInterrupt_eq s resume status setsI vector hv hv']
  have h := (frame_pushWord s resume).trans (frame_push _ status)
  cases setsI
  · exact ((h.trans (frame_setPc _ _)).mono (by simp) (by simp))
  · exact ((h.trans (frame_setFlag _ .i true)).trans (frame_setPc _ _)).mono (by simp) (by simp)

/-- RTI's return: P and PC from the three bytes above SP, SP three higher. -/
theorem returnFromInterrupt_eq :
    returnFromInterrupt s =
      (((s.setSp (s.sp + 1)).setP (restoredP (s.ram.read (0x100 + (s.sp + 1).toNat)))).setSp (s.sp + 3)).setPc
        (word16 (s.ram.read (0x100 + (s.sp + 3).toNat)) (s.ram.read (0x100 + (s.sp + 2).toNat))) := by
  have h1 : s.sp + 1 + 1 = s.sp + 2 := by rw [BitVec.add_assoc]; rfl
  have h2 : s.sp + 1 + 2 = s.sp + 3 := by rw [BitVec.add_assoc]; rfl
  simp only [returnFromInterrupt, pull_eq, pullWord_eq, State.setP_fields, State.setSp_fields, h1, h2]

theorem frame_returnFromInterrupt :
    Frame [.sp] [.c, .z, .i, .d, .b, .u, .v, .n] s (returnFromInterrupt s) := by
  rw [returnFromInterrupt_eq]
  exact ((((frame_setSp s _).trans (frame_setP _ _)).trans (frame_setSp _ _)).trans (frame_setPc _ _)).mono
    (by simp) (by simp)

/-! ## What memory holds after a store -/

/-- A CPU write stores its byte at its address and nowhere else. -/
theorem stored_memWrite {s : State} (hm : Memory.wf s.ram) (ea : Word) (v : Byte) : Stored ea v s (memWrite ea v s) := by
  rw [memWrite_eq]
  refine ⟨fun a ha => ?_, fun a ⟨h1, h2, h3⟩ => ?_⟩
  · by_cases h : a.toNat < 0x2000
    · rw [peek_ram h, peek_ram h]
      simp only [State.setRam_fields, ramAfter]
      split
      · rename_i he
        rw [Memory.read_write_other _ _ _ _ fun e => ha ⟨he, h, e.symm⟩]
      · rfl
    · exact peek_highRam a s _ (by omega)
  · rw [peek_ram h2]
    simp only [State.setRam_fields, ramAfter, if_pos h1, ← h3, Memory.read_write_same _ _ _ hm]

/-- A store seen through states that read alike before and after it. -/
theorem Stored.congr {ea : Word} {v : Byte} {s s' t t' : State} (h : Stored ea v s t) (hs : SameMemory s' s)
    (ht : SameMemory t t') : Stored ea v s' t' :=
  ⟨fun a ha => (ht a).trans ((h.1 a ha).trans (hs a)), fun a ha => (ht a).trans (h.2 a ha)⟩

end Sys2Proof.Machine
end

