-- ==== Sys2Proof/Laws/Shapes.lean ====
section
/-! SUPPORT. One lemma for each shape of instruction: it completes, and its frame is that of the act it is given. -/

namespace Sys2Proof.Machine

/-- The state an instruction's act runs in: after its addressing mode and its data fetch. -/
def operandsRead (o : Operand) (s : State) : State := (operandByte o (addrMode o s).2).2

@[simp] theorem operandsRead_fields (o : Operand) (s : State) :
    (operandsRead o s).a = s.a ∧ (operandsRead o s).x = s.x ∧ (operandsRead o s).y = s.y ∧ (operandsRead o s).sp = s.sp
    ∧ (operandsRead o s).pc = s.pc ∧ (operandsRead o s).p = s.p ∧ (operandsRead o s).addrAbs = effAddr o s
    ∧ (operandsRead o s).addrRel = (addrMode o s).2.addrRel ∧ (operandsRead o s).opcode = s.opcode
    ∧ (operandsRead o s).ram = s.ram ∧ (operandsRead o s).cart = s.cart ∧ (operandsRead o s).events = s.events
    ∧ (operandsRead o s).params = s.params := by
  simp [operandsRead, effAddr]

@[simp] theorem flag_operandsRead (o : Operand) (s : State) (f : Flag) : (operandsRead o s).flag f = s.flag f := by
  simp [operandsRead]

theorem frame_operandsRead (o : Operand) (s : State) : Frame [] [] s (operandsRead o s) :=
  (frame_addrMode s o).trans (frame_operandByte _ o)

theorem sameMemory_operandsRead (o : Operand) (s : State) : SameMemory s (operandsRead o s) :=
  (frame_operandsRead o s).sameMemory (by simp)

theorem frame_addrMode_sameMemory (o : Operand) (s : State) : SameMemory s (addrMode o s).2 :=
  (frame_addrMode s o).sameMemory (by simp)

variable {rs : List Reg} {fs : List Flag}

/-- An act's frame is the frame of the instruction around it. -/
theorem frame_around {s u v : State} (i : Instr) (a b : Bool) (e : Byte) (h : Frame [] [] s u) (k : Frame rs fs u v) :
    Frame rs fs s (charge i a b e v) :=
  ((h.trans k).trans (frame_charge v i a b e)).mono (by simp) (by simp)

/-- A reading instruction completes; if its act leaves RAM and PC alone, so does it. -/
theorem readOp_spec (i : Instr) (o : Operand) (b : Bool) (act : Byte → State → State) (s : State)
    (hf : ∀ m u, Frame rs fs u (act m u)) (hr : ∀ m u, (act m u).ram = u.ram) (hp : ∀ m u, (act m u).pc = u.pc) :
    ∃ t, readOp i o b act s = .next t ∧ t = charge i (crosses o s) b 0 (act (dataByte o s) (operandsRead o s)) ∧
      Frame rs fs s t ∧ SameMemory s t ∧ t.pc = s.pc ∧
      t.cycles = i.baseCycles + (if b && crosses o s then 1 else 0) := by
  have h := frame_around i (crosses o s) b 0 (frame_operandsRead o s) (hf (dataByte o s) (operandsRead o s))
  refine ⟨_, rfl, rfl, h, h.sameMemory ?_, ?_, ?_⟩
  · simp [hr]
  · simp [hp]
  · simp [charge_cycles, crosses, Bool.and_comm b]

/-- A storing instruction completes, stores its byte at the effective address and changes no register and no flag. -/
theorem storeOp_spec (i : Instr) (o : Operand) (v : Byte) (s : State) (hm : Memory.wf s.ram) :
    ∃ t, storeOp i o v s = .next t ∧ Stored (effAddr o s) v s t ∧ Frame [] [] s t ∧ t.pc = s.pc ∧
      t.cycles = i.baseCycles := by
  have h := frame_around i (crosses o s) false 0 (frame_addrMode s o) (frame_memWrite (addrMode o s).2 (effAddr o s) v)
  refine ⟨_, rfl, ?_, h, ?_, ?_⟩
  · refine (stored_memWrite (s := (addrMode o s).2) (by simpa using hm) (effAddr o s) v).congr
      (frame_addrMode_sameMemory o s) (fun a => peek_congr ?_ ?_ ?_ a) <;> simp [effAddr]
  · simp
  · simp [charge_cycles]

/-- A read-modify-write instruction completes and writes its result where its operand says. -/
theorem modifyOp_spec (i : Instr) (o : Operand) (act : Byte → State → Byte × State) (s : State) (hm : Memory.wf s.ram)
    (hf : ∀ m u, Frame [] fs u (act m u).2) (hr : ∀ m u, (act m u).2.ram = u.ram) (hp : ∀ m u, (act m u).2.pc = u.pc)
    (ha : ∀ m u, (act m u).2.addrAbs = u.addrAbs) :
    ∃ t, modifyOp i o act s = .next t ∧
      t = charge i (crosses o s) false 0 (writeback o (act (dataByte o s) (operandsRead o s)).1
        (act (dataByte o s) (operandsRead o s)).2) ∧
      WroteBack o (act (dataByte o s) (operandsRead o s)).1 s t ∧ Frame [.a] fs s t ∧ t.pc = s.pc ∧
      t.cycles = i.baseCycles := by
  have k := (hf (dataByte o s) (operandsRead o s)).trans
    (frame_writeback _ o (act (dataByte o s) (operandsRead o s)).1)
  have h := frame_around i (crosses o s) false 0 (frame_operandsRead o s) (k.mono (rs' := [.a]) (fs' := fs) (by simp) (by simp))
  refine ⟨charge i (crosses o s) false 0 (writeback o (act (dataByte o s) (operandsRead o s)).1
    (act (dataByte o s) (operandsRead o s)).2), rfl, rfl, ?_, h, ?_, ?_⟩
  · unfold WroteBack
    split
    · rename_i ho
      subst ho
      exact ⟨by simp [writeback], h.sameMemory (by simp [writeback, hr])⟩
    · rename_i ho
      have hw : ∀ r u, writeback o r u = memWrite u.addrAbs r u := fun r u => by cases o <;> simp_all [writeback]
      have ht : (act (dataByte o s) (operandsRead o s)).2.a = s.a := by
        simpa [State.reg] using (hf (dataByte o s) (operandsRead o s)).regs .a (by simp)
      rw [hw, ha, show (operandsRead o s).addrAbs = effAddr o s by simp]
      refine ⟨by simpa using ht, (stored_memWrite (s := (act (dataByte o s) (operandsRead o s)).2) (by rw [hr]; simpa using hm) _ _).congr
        ((sameMemory_operandsRead o s).trans ((hf (dataByte o s) _).sameMemory (hr _ _))) fun a => peek_congr ?_ ?_ ?_ a⟩ <;> simp
  · simp [hp]
  · simp [charge_cycles]

/-- An instruction of implied mode completes, and its frame is its act's. -/
theorem impliedOp_spec (i : Instr) (act : State → State) (s : State) (hf : ∀ u, Frame rs fs u (act u)) :
    ∃ t, impliedOp i act s = .next t ∧ t = charge i false false 0 (act (s.setFetched s.a)) ∧ Frame rs fs s t ∧
      t.cycles = i.baseCycles :=
  ⟨_, rfl, rfl, frame_around i false false 0 (frame_addrMode s .imp) (hf _), by simp [charge_cycles]⟩

/-- An instruction of implied mode whose act leaves RAM and PC alone does so too. -/
theorem impliedOp_quiet (i : Instr) (act : State → State) (s : State) (hf : ∀ u, Frame rs fs u (act u))
    (hr : ∀ u, (act u).ram = u.ram) (hp : ∀ u, (act u).pc = u.pc) :
    ∃ t, impliedOp i act s = .next t ∧ t = charge i false false 0 (act (s.setFetched s.a)) ∧ Frame rs fs s t ∧
      SameMemory s t ∧ t.pc = s.pc ∧ t.cycles = i.baseCycles := by
  obtain ⟨t, h, ht, hF, hc⟩ := impliedOp_spec i act s hf
  exact ⟨t, h, ht, hF, hF.sameMemory (by simp [ht, hr]), by simp [ht, hp], hc⟩

/-- An instruction that acts on its resolved address completes, and its frame is its act's. -/
theorem addressOp_spec (i : Instr) (o : Operand) (act : Word → State → State) (s : State)
    (hf : ∀ w u, Frame rs fs u (act w u)) :
    ∃ t, addressOp i o act s = .next t ∧
      t = charge i (crosses o s) false 0 (act (effAddr o s) (addrMode o s).2) ∧ Frame rs fs s t ∧
      t.cycles = i.baseCycles :=
  ⟨_, rfl, rfl, frame_around i _ false 0 (frame_addrMode s o) (hf _ _), by simp [charge_cycles]⟩

/-- A branch completes; it changes PC, the transient fields and `cycles`, and nothing else. -/
theorem branchOp_spec (i : Instr) (d : Byte) (cond : State → Bool) (s : State)
    (hc : ∀ w, cond (s.setAddrRel w) = cond s) :
    ∃ t, branchOp i d cond s = .next t ∧ t.pc = (if cond s then s.pc + sext16 d else s.pc) ∧
      t.cycles = i.baseCycles + (if cond s then branchCycles s.pc (s.pc + sext16 d) s else 0) ∧
      Frame [] [] s t ∧ SameMemory s t := by
  have hr := frame_addrMode s (.rel d)
  simp only [branchOp, addrMode, hc]
  by_cases h : cond s = true
  · simp only [h, if_true]
    have hF := frame_around i false false (branchCycles s.pc (s.pc + sext16 d) s) hr
      ((frame_setAddrAbs (addrMode (.rel d) s).2 (s.pc + sext16 d)).trans (frame_setPc _ (s.pc + sext16 d)))
    exact ⟨_, rfl, by simp, by simp [charge_cycles, branchCycles], hF, hF.sameMemory (by simp)⟩
  · simp only [h, if_false, Bool.false_eq_true]
    have hF := frame_around i false false 0 hr (Frame.refl (addrMode (.rel d) s).2)
    exact ⟨_, rfl, by simp, by simp [charge_cycles], hF, hF.sameMemory (by simp)⟩

end Sys2Proof.Machine
end

