-- ==== Sys2Proof/Laws/Addresses.lean ====
section
/-! SUPPORT. The effective address, the page-cross flag and the data byte of each operand, and what they do not depend on. -/

namespace Sys2Proof.Machine

/-- A zero-page pointer is two RAM bytes, and reading it changes nothing. -/
theorem zeroPagePointer_eq (z : Byte) (s : State) :
    zeroPagePointer z s = (word16 (s.ram.read (z + 1).toNat) (s.ram.read z.toNat), s) := by
  have h : ∀ b : Byte, peek (zext16 b) s = some (s.ram.read b.toNat) := fun b => by
    have := b.isLt
    rw [peek_ram (by rw [toNat_zext16]; omega), toNat_zext16, Nat.mod_eq_of_lt (by omega)]
  exact memReadPair_of_peek (h z) (h (z + 1))

/-- What the modes without an indirect pointer do. -/
theorem addrMode_izx (z : Byte) (s : State) :
    addrMode (.izx z) s =
      (false, s.setAddrAbs (word16 (s.ram.read (z + s.x + 1).toNat) (s.ram.read (z + s.x).toNat))) := by
  simp only [addrMode, zeroPagePointer_eq]

theorem addrMode_izy (z : Byte) (s : State) :
    addrMode (.izy z) s = indexed (word16 (s.ram.read (z + 1).toNat) (s.ram.read z.toNat)) s.y s := by
  simp only [addrMode, zeroPagePointer_eq]

theorem addrMode_ind {ptr : Word} {s : State} {l h : Byte} (hl : peek ptr s = some l)
    (hh : peek (indirectHighAddr ptr) s = some h) : addrMode (.ind ptr) s = (false, s.setAddrAbs (word16 h l)) := by
  simp only [addrMode, memReadPair_of_peek hl hh]

/-- An indexed address leaves its page exactly when the low byte plus the index carries. -/
theorem indexed_crosses (base : Word) (index : Byte) (s : State) :
    (indexed base index s).1 = decide (256 ≤ base.toNat % 256 + index.toNat) := by
  have hb := base.isLt
  have hi := index.isLt
  simp only [indexed]
  rw [decide_eq_decide, ne_eq, ← BitVec.toNat_inj, toNat_hiByte, toNat_hiByte, BitVec.toNat_add, toNat_zext16]
  omega

/-- The data byte of a mode with an address is what a CPU read there gives. -/
theorem dataByte_memory {o : Operand} (s : State) (hi : o ≠ .imp) (hm : ∀ v, o ≠ .imm v) :
    dataByte o s = readByte (effAddr o s) (addrMode o s).2 := by
  cases o <;> simp_all [dataByte, effAddr, operandByte]

theorem peek_addrMode (a : Word) (o : Operand) (s : State) : peek a (addrMode o s).2 = peek a s :=
  frame_addrMode_sameMemory o s a

/-- The addressing modes and the data fetch do not read P. -/
theorem addrMode_setP (o : Operand) (v : Byte) (s : State) :
    addrMode o (s.setP v) = ((addrMode o s).1, (addrMode o s).2.setP v) := by
  cases o <;> simp [addrMode, indexed, zeroPagePointer_eq, memReadPair, readByte, readFree] <;> rfl

theorem operandByte_setP (o : Operand) (v : Byte) (s : State) :
    operandByte o (s.setP v) = ((operandByte o s).1, (operandByte o s).2.setP v) := by
  cases o <;> simp [operandByte, readByte, readFree] <;> rfl

end Sys2Proof.Machine
end

