-- ==== Sys2Proof/Laws/HostPort.lean ====
section
/-! SUPPORT. What the PPU-side port reads and writes, as the byte its address selects, and what a served call leaves. -/

namespace Sys2Proof.Machine

variable (s : State)

/-! ## PPU-side addresses: the 14 bits that count -/

theorem ppuMask_toNat (a : Word) : (a &&& 0x3FFF).toNat = a.toNat % 0x4000 := by
  simpa using Nat.and_two_pow_sub_one_eq_mod a.toNat 14

@[simp] theorem usesNametable1_mask (m : Mirror) (a : Word) : usesNametable1 m (a &&& 0x3FFF) = usesNametable1 m a := by
  cases m <;> simp [usesNametable1]

@[simp] theorem paletteIndex_mask (a : Word) : paletteIndex (a &&& 0x3FFF) = paletteIndex a := by
  rw [paletteIndex, BitVec.and_assoc]; rfl

theorem nametableIndex_mask (a : Word) : nametableIndex (a &&& 0x3FFF) = a.toNat % 0x4000 % 0x400 := by
  rw [← ppuMask_toNat, nametableIndex, BitVec.toNat_and]
  exact Nat.and_two_pow_sub_one_eq_mod (a &&& 0x3FFF).toNat 10

/-! ## The port -/

theorem cartMapper_zero {c : Cartridge} (hm : c.mapperId = 0) : cartMapper c = some (.m000 c.prgBanks c.chrBanks) := by
  simp [cartMapper, mapperFor, hm]

/-- A PPU-side read gives the byte of storage its address selects, or else the pattern byte. -/
theorem ppuRead_eq {c : Cartridge} (hm : c.mapperId = 0) (a : Word) :
    ppuRead c a s = match ppuByte c.mirror a with
      | some k => ppuStored s k
      | none => c.chr.read (a.toNat % 0x4000) := by
  simp only [ppuRead, cartPpuRead, cartMapper_zero hm, ppuMapRead, ppuMask_toNat, usesNametable1_mask, paletteIndex_mask,
    nametableIndex_mask, ppuByte]
  by_cases h1 : a.toNat % 0x4000 < 0x2000
  · rw [if_pos (Nat.le_of_lt_succ h1), if_pos h1]
  · have h1' : ¬ a.toNat % 0x4000 ≤ 0x1FFF := fun h => h1 (Nat.lt_succ_of_le h)
    by_cases h2 : a.toNat % 0x4000 < 0x3F00
    · have h2' : a.toNat % 0x4000 ≤ 0x3EFF := Nat.le_of_lt_succ h2
      simp only [if_neg h1, if_neg h1', if_pos h2, if_pos h2']
      cases usesNametable1 c.mirror a <;> rfl
    · have h2' : ¬ a.toNat % 0x4000 ≤ 0x3EFF := fun h => h2 (Nat.lt_succ_of_le h)
      simp only [if_neg h1, if_neg h1', if_neg h2, if_neg h2', ppuStored]

/-- A PPU-side write stores into the byte its address selects, and nowhere else. -/
theorem ppuWrite_eq {c : Cartridge} (hm : c.mapperId = 0) (a : Word) (v : Byte) :
    ppuWrite c a v s = match ppuByte c.mirror a with
      | none => s
      | some (.nametable0 k) => s.setNametable0 (s.nametable0.write k v)
      | some (.nametable1 k) => s.setNametable1 (s.nametable1.write k v)
      | some (.palette k) => s.setPalette (s.palette.write k v) := by
  simp only [ppuWrite, cartClaimsPpuWrite, cartMapper_zero hm, ppuMapWrite, ppuMask_toNat, usesNametable1_mask,
    paletteIndex_mask, nametableIndex_mask, ppuByte]
  by_cases h1 : a.toNat % 0x4000 < 0x2000
  · simp [Nat.le_of_lt_succ h1, h1]
  · have h1' : ¬ a.toNat % 0x4000 ≤ 0x1FFF := fun h => h1 (Nat.lt_succ_of_le h)
    by_cases h2 : a.toNat % 0x4000 < 0x3F00
    · have h2' : a.toNat % 0x4000 ≤ 0x3EFF := Nat.le_of_lt_succ h2
      simp only [if_neg h1, if_neg h1', if_pos h2, if_pos h2']
      cases usesNametable1 c.mirror a <;> rfl
    · have h2' : ¬ a.toNat % 0x4000 ≤ 0x3EFF := fun h => h2 (Nat.lt_succ_of_le h)
      simp only [if_neg h1, if_neg h1', if_neg h2, if_neg h2']
      rfl

/-- Whatever the cartridge, a PPU-side write changes at most the nametables and the palette. -/
theorem ppuWrite_shape (c : Cartridge) (a : Word) (v : Byte) :
    ppuWrite c a v s = ((s.setNametable0 (ppuWrite c a v s).nametable0).setNametable1 (ppuWrite c a v s).nametable1).setPalette
      (ppuWrite c a v s).palette := by
  unfold ppuWrite
  simp only []
  split
  · rfl
  · split
    · rfl
    · split
      · split <;> rfl
      · rfl

/-! ## The phase -/

/-- After a served call no load is allowed. -/
@[simp] theorem phaseNext_ne_loading (p : Phase) : p.next ≠ .loading := by cases p <;> simp [Phase.next]

/-- A served call leaves any later phase as it is. -/
theorem phaseNext_of_ne {p : Phase} (h : p ≠ .loading) : p.next = p := by cases p <;> simp_all [Phase.next]

@[simp] theorem phaseNext_running : Phase.running.next = .running := rfl

end Sys2Proof.Machine
end

