-- ==== Sys2Proof/Laws/PerInstr.lean ====
section
/-! SUPPORT. For each instruction: a well-formed form has an opcode byte, and the decoder table's entry for that byte has
its mode, its cycles and its length. -/

namespace Sys2Proof.Laws.Encoding

/-- The by-mnemonic table that the encoder uses agrees with the opcode map that the decoder uses. -/
def Statement (i : Instr) : Prop :=
  i.wf = true → ∃ op, i.opcode = some op ∧ (descriptor op).mode = i.operand.mode ∧ (descriptor op).base = i.baseCycles ∧
    (encode i).length = (descriptor op).mode.format.length

theorem lda (o : Operand) : Statement (.lda o) := by
  intro h
  cases o <;> first
    | exact absurd h Bool.false_ne_true
    | exact ⟨_, rfl, rfl, rfl, rfl⟩

theorem ldx (o : Operand) : Statement (.ldx o) := by
  intro h
  cases o <;> first
    | exact absurd h Bool.false_ne_true
    | exact ⟨_, rfl, rfl, rfl, rfl⟩

theorem ldy (o : Operand) : Statement (.ldy o) := by
  intro h
  cases o <;> first
    | exact absurd h Bool.false_ne_true
    | exact ⟨_, rfl, rfl, rfl, rfl⟩

theorem sta (o : Operand) : Statement (.sta o) := by
  intro h
  cases o <;> first
    | exact absurd h Bool.false_ne_true
    | exact ⟨_, rfl, rfl, rfl, rfl⟩

theorem stx (o : Operand) : Statement (.stx o) := by
  intro h
  cases o <;> first
    | exact absurd h Bool.false_ne_true
    | exact ⟨_, rfl, rfl, rfl, rfl⟩

theorem sty (o : Operand) : Statement (.sty o) := by
  intro h
  cases o <;> first
    | exact absurd h Bool.false_ne_true
    | exact ⟨_, rfl, rfl, rfl, rfl⟩

theorem adc (o : Operand) : Statement (.adc o) := by
  intro h
  cases o <;> first
    | exact absurd h Bool.false_ne_true
    | exact ⟨_, rfl, rfl, rfl, rfl⟩

theorem sbc (o : Operand) : Statement (.sbc o) := by
  intro h
  cases o <;> first
    | exact absurd h Bool.false_ne_true
    | exact ⟨_, rfl, rfl, rfl, rfl⟩

theorem inc (o : Operand) : Statement (.inc o) := by
  intro h
  cases o <;> first
    | exact absurd h Bool.false_ne_true
    | exact ⟨_, rfl, rfl, rfl, rfl⟩

theorem dec (o : Operand) : Statement (.dec o) := by
  intro h
  cases o <;> first
    | exact absurd h Bool.false_ne_true
    | exact ⟨_, rfl, rfl, rfl, rfl⟩

theorem inx : Statement .inx := fun _ => ⟨_, rfl, rfl, rfl, rfl⟩

theorem iny : Statement .iny := fun _ => ⟨_, rfl, rfl, rfl, rfl⟩

theorem dex : Statement .dex := fun _ => ⟨_, rfl, rfl, rfl, rfl⟩

theorem dey : Statement .dey := fun _ => ⟨_, rfl, rfl, rfl, rfl⟩

theorem and (o : Operand) : Statement (.and o) := by
  intro h
  cases o <;> first
    | exact absurd h Bool.false_ne_true
    | exact ⟨_, rfl, rfl, rfl, rfl⟩

theorem ora (o : Operand) : Statement (.ora o) := by
  intro h
  cases o <;> first
    | exact absurd h Bool.false_ne_true
    | exact ⟨_, rfl, rfl, rfl, rfl⟩

theorem eor (o : Operand) : Statement (.eor o) := by
  intro h
  cases o <;> first
    | exact absurd h Bool.false_ne_true
    | exact ⟨_, rfl, rfl, rfl, rfl⟩

theorem bit (o : Operand) : Statement (.bit o) := by
  intro h
  cases o <;> first
    | exact absurd h Bool.false_ne_true
    | exact ⟨_, rfl, rfl, rfl, rfl⟩

theorem asl (o : Operand) : Statement (.asl o) := by
  intro h
  cases o <;> first
    | exact absurd h Bool.false_ne_true
    | exact ⟨_, rfl, rfl, rfl, rfl⟩

theorem lsr (o : Operand) : Statement (.lsr o) := by
  intro h
  cases o <;> first
    | exact absurd h Bool.false_ne_true
    | exact ⟨_, rfl, rfl, rfl, rfl⟩

theorem rol (o : Operand) : Statement (.rol o) := by
  intro h
  cases o <;> first
    | exact absurd h Bool.false_ne_true
    | exact ⟨_, rfl, rfl, rfl, rfl⟩

theorem ror (o : Operand) : Statement (.ror o) := by
  intro h
  cases o <;> first
    | exact absurd h Bool.false_ne_true
    | exact ⟨_, rfl, rfl, rfl, rfl⟩

theorem cmp (o : Operand) : Statement (.cmp o) := by
  intro h
  cases o <;> first
    | exact absurd h Bool.false_ne_true
    | exact ⟨_, rfl, rfl, rfl, rfl⟩

theorem cpx (o : Operand) : Statement (.cpx o) := by
  intro h
  cases o <;> first
    | exact absurd h Bool.false_ne_true
    | exact ⟨_, rfl, rfl, rfl, rfl⟩

theorem cpy (o : Operand) : Statement (.cpy o) := by
  intro h
  cases o <;> first
    | exact absurd h Bool.false_ne_true
    | exact ⟨_, rfl, rfl, rfl, rfl⟩

theorem bcc (d : Byte) : Statement (.bcc d) := fun _ => ⟨_, rfl, rfl, rfl, rfl⟩

theorem bcs (d : Byte) : Statement (.bcs d) := fun _ => ⟨_, rfl, rfl, rfl, rfl⟩

theorem beq (d : Byte) : Statement (.beq d) := fun _ => ⟨_, rfl, rfl, rfl, rfl⟩

theorem bmi (d : Byte) : Statement (.bmi d) := fun _ => ⟨_, rfl, rfl, rfl, rfl⟩

theorem bne (d : Byte) : Statement (.bne d) := fun _ => ⟨_, rfl, rfl, rfl, rfl⟩

theorem bpl (d : Byte) : Statement (.bpl d) := fun _ => ⟨_, rfl, rfl, rfl, rfl⟩

theorem bvc (d : Byte) : Statement (.bvc d) := fun _ => ⟨_, rfl, rfl, rfl, rfl⟩

theorem bvs (d : Byte) : Statement (.bvs d) := fun _ => ⟨_, rfl, rfl, rfl, rfl⟩

theorem pha : Statement .pha := fun _ => ⟨_, rfl, rfl, rfl, rfl⟩

theorem php : Statement .php := fun _ => ⟨_, rfl, rfl, rfl, rfl⟩

theorem pla : Statement .pla := fun _ => ⟨_, rfl, rfl, rfl, rfl⟩

theorem plp : Statement .plp := fun _ => ⟨_, rfl, rfl, rfl, rfl⟩

theorem jmp (o : Operand) : Statement (.jmp o) := by
  intro h
  cases o <;> first
    | exact absurd h Bool.false_ne_true
    | exact ⟨_, rfl, rfl, rfl, rfl⟩

theorem jsr (w : Word) : Statement (.jsr w) := fun _ => ⟨_, rfl, rfl, rfl, rfl⟩

theorem rts : Statement .rts := fun _ => ⟨_, rfl, rfl, rfl, rfl⟩

theorem rti : Statement .rti := fun _ => ⟨_, rfl, rfl, rfl, rfl⟩

theorem brk : Statement .brk := fun _ => ⟨_, rfl, rfl, rfl, rfl⟩

theorem clc : Statement .clc := fun _ => ⟨_, rfl, rfl, rfl, rfl⟩

theorem cld : Statement .cld := fun _ => ⟨_, rfl, rfl, rfl, rfl⟩

theorem cli : Statement .cli := fun _ => ⟨_, rfl, rfl, rfl, rfl⟩

theorem clv : Statement .clv := fun _ => ⟨_, rfl, rfl, rfl, rfl⟩

theorem sec : Statement .sec := fun _ => ⟨_, rfl, rfl, rfl, rfl⟩

theorem sed : Statement .sed := fun _ => ⟨_, rfl, rfl, rfl, rfl⟩

theorem sei : Statement .sei := fun _ => ⟨_, rfl, rfl, rfl, rfl⟩

theorem tax : Statement .tax := fun _ => ⟨_, rfl, rfl, rfl, rfl⟩

theorem tay : Statement .tay := fun _ => ⟨_, rfl, rfl, rfl, rfl⟩

theorem tsx : Statement .tsx := fun _ => ⟨_, rfl, rfl, rfl, rfl⟩

theorem txa : Statement .txa := fun _ => ⟨_, rfl, rfl, rfl, rfl⟩

theorem txs : Statement .txs := fun _ => ⟨_, rfl, rfl, rfl, rfl⟩

theorem tya : Statement .tya := fun _ => ⟨_, rfl, rfl, rfl, rfl⟩

theorem nop : Statement .nop := fun _ => ⟨_, rfl, rfl, rfl, rfl⟩

/-- Each illegal byte has an entry of implied mode (spec/30_encoding.md R85). -/
theorem illegal_entry : ∀ op ∈ illegalOpcodes,
    (descriptor op).mode = .imp ∧ (descriptor op).base = (Instr.xxx op).baseCycles ∧ (encode (.xxx op)).length = 1 := by
  decide

theorem xxx (op : Byte) : Statement (.xxx op) := by
  intro h
  obtain ⟨hm, hb, hl⟩ := illegal_entry op (by simpa [Instr.wf] using h)
  exact ⟨op, if_pos h, hm, hb, by rw [hl, hm]; rfl⟩

end Sys2Proof.Laws.Encoding
end

