-- ==== Sys2Proof/Laws/Step.lean ====
section
/-! SUPPORT. What the fetch, the PPU tick, the CPU tick and one step do. -/

namespace Sys2Proof.Machine

variable (s : State)

/-! ## Fetch -/

/-- A byte of an instruction, read where storage answers. -/
theorem nextByte_of_peek {s : State} {b : Byte} (h : peek s.pc s = some b) : nextByte s = (b, s.setPc (s.pc + 1)) := by
  simp [nextByte, readByte_of_peek h, readFree_of_peek h]

/-- The fetch writes only PC, `opcode` and the index of the free values. -/
@[simp] theorem fetch_fields :
    (fetch s).2.a = s.a ∧ (fetch s).2.x = s.x ∧ (fetch s).2.y = s.y ∧ (fetch s).2.sp = s.sp ∧ (fetch s).2.p = s.p
    ∧ (fetch s).2.fetched = s.fetched ∧ (fetch s).2.addrAbs = s.addrAbs ∧ (fetch s).2.addrRel = s.addrRel
    ∧ (fetch s).2.cycles = s.cycles ∧ (fetch s).2.ram = s.ram ∧ (fetch s).2.sysclk = s.sysclk
    ∧ (fetch s).2.nametable0 = s.nametable0 ∧ (fetch s).2.nametable1 = s.nametable1 ∧ (fetch s).2.palette = s.palette
    ∧ (fetch s).2.scanline = s.scanline ∧ (fetch s).2.cycle = s.cycle ∧ (fetch s).2.frameComplete = s.frameComplete
    ∧ (fetch s).2.cart = s.cart ∧ (fetch s).2.events = s.events ∧ (fetch s).2.params = s.params
    ∧ (fetch s).2.phase = s.phase ∧ (fetch s).2.driver = s.driver ∧ (fetch s).2.reply = s.reply := by
  unfold fetch nextByte
  simp only [memRead_eq]
  split <;> simp

/-! ## The PPU tick -/

/-- A PPU tick writes only the PPU's counters and `frame_complete`. -/
theorem ppuClock_eq :
    ppuClock s = (s.setPpuPosition (ppuClock s).scanline (ppuClock s).cycle).setFrameComplete (ppuClock s).frameComplete := by
  unfold ppuClock
  split
  · split <;> rfl
  · rfl

@[simp] theorem ppuClock_fields :
    (ppuClock s).a = s.a ∧ (ppuClock s).x = s.x ∧ (ppuClock s).y = s.y ∧ (ppuClock s).sp = s.sp ∧ (ppuClock s).pc = s.pc
    ∧ (ppuClock s).p = s.p ∧ (ppuClock s).fetched = s.fetched ∧ (ppuClock s).addrAbs = s.addrAbs
    ∧ (ppuClock s).addrRel = s.addrRel ∧ (ppuClock s).opcode = s.opcode ∧ (ppuClock s).cycles = s.cycles
    ∧ (ppuClock s).ram = s.ram ∧ (ppuClock s).sysclk = s.sysclk ∧ (ppuClock s).nametable0 = s.nametable0
    ∧ (ppuClock s).nametable1 = s.nametable1 ∧ (ppuClock s).palette = s.palette ∧ (ppuClock s).cart = s.cart
    ∧ (ppuClock s).events = s.events ∧ (ppuClock s).params = s.params ∧ (ppuClock s).phase = s.phase
    ∧ (ppuClock s).freeCount = s.freeCount ∧ (ppuClock s).driver = s.driver ∧ (ppuClock s).reply = s.reply := by
  rw [ppuClock_eq]
  refine ⟨rfl, rfl, rfl, rfl, rfl, rfl, rfl, rfl, rfl, rfl, rfl, rfl, rfl, rfl, rfl, rfl, rfl, rfl, rfl, rfl, rfl, rfl, rfl⟩

/-! ## One step -/

/-- With no host call pending after the first reset, a step is `Bus.clock()`. -/
theorem step_clocked {s : State} (hb : s.phase = .running) (hd : s.driver = []) : step s = busClock s := by
  simp [step, hd, hostCall, afterReset, hb]

/-- Off the CPU's ticks, `Bus.clock()` ticks the PPU only. -/
theorem busClock_ppuOnly {s : State} (h : (s.sysclk + 1) % 3 ≠ 0) :
    busClock s = .next (ppuClock (s.setSysclk (s.sysclk + 1))) := by
  simp [busClock, h]

/-- On a CPU tick, `Bus.clock()` ticks the PPU and then the CPU. -/
theorem busClock_cpu {s : State} (h : (s.sysclk + 1) % 3 = 0) :
    busClock s = cpuClock (ppuClock (s.setSysclk (s.sysclk + 1))) := by
  simp [busClock, h]

/-- With cycles left, a CPU tick only counts down. -/
theorem cpuClock_countDown {s : State} (h : s.cycles ≠ 0) : cpuClock s = .next (countDown s) := by
  rw [cpuClock, if_neg h]

/-- At an instruction boundary, a CPU tick fetches and executes one instruction. -/
theorem cpuClock_fetch {s : State} (h : s.cycles = 0) : cpuClock s = onNext countDown (exec (fetch s).1 (fetch s).2) := by
  rw [cpuClock, if_pos h]

end Sys2Proof.Machine
end

