-- ==== Sys2Proof/Tests/Slice0.lean ====
section
/-! SUPPORT. The model's own tests: what is refused as ill-formed, words decoded by hand, one-step vectors of
spec/95_test_vectors.md, and a witness for the hypotheses of each statement. -/

namespace Sys2Proof.Tests

open Sys2Proof.Machine

/-! ## Helpers -/

/-- The cartridge of the vectors: one program bank, mapper 000, the vectors of section 5 in ROM (NMI 0x9010, IRQ 0x9000)
and the reset vector 0x8000. -/
def cart : Cartridge where
  prg := [(0x3FFA, 0x10), (0x3FFB, 0x90), (0x3FFD, 0x80), (0x3FFF, 0x90)]
  chr := []
  mapperId := 0
  prgBanks := .one
  chrBanks := 1
  mirror := .vertical
  valid := true

/-- The start state of the vectors, one master tick before a CPU tick. -/
def start : State := { State.reset with p := 0x20, pc := 0x8000, cycles := 0, sysclk := 2, cart := some cart }

/-- A state with program bytes at its PC. -/
def withCode (code : List Byte) (s : State) : State := placeBytes s.pc code s

/-- Whether a result is a next state that satisfies a test. -/
def after (r : Result) (p : State → Bool) : Bool :=
  match r with
  | .next t => p t
  | .fault _ => false
  | .refused _ => false

/-! ## One step, from the vectors of spec/95_test_vectors.md -/

theorem test_V1_lda : after (step (withCode [0xA9, 0x80] start))
    (fun t => t.a = 0x80 ∧ t.p = 0xA0 ∧ t.pc = 0x8002 ∧ t.cycles = 1) = true := by decide

theorem test_M3_lda : after (step (withCode [0xB1, 0xFF] { start with y := 0x01, ram := [(0x00, 0x02), (0xFF, 0xFF), (0x300, 0x5A)] }))
    (fun t => t.a = 0x5A ∧ t.p = 0x20 ∧ t.pc = 0x8002 ∧ t.cycles = 5) = true := by decide

theorem test_V3_ldx : after (step (withCode [0xB6, 0xFF] { start with y := 0x10, ram := [(0x0F, 0x07)] }))
    (fun t => t.x = 0x07 ∧ t.p = 0x20 ∧ t.pc = 0x8002 ∧ t.cycles = 3) = true := by decide

theorem test_M8_ldx : after (step (withCode [0xBE, 0xFF, 0x02] { start with y := 0x01, ram := [(0x300, 0x14)] }))
    (fun t => t.x = 0x14 ∧ t.pc = 0x8003 ∧ t.cycles = 4) = true := by decide

theorem test_V2_ldy : after (step (withCode [0xA0, 0x00] start))
    (fun t => t.y = 0x00 ∧ t.p = 0x22 ∧ t.pc = 0x8002 ∧ t.cycles = 1) = true := by decide

theorem test_V4_sta : after (step (withCode [0x9D, 0xFF, 0x00] { start with a := 0x5A, x := 0x01 }))
    (fun t => t.ram = [(0x100, 0x5A)] ∧ t.p = 0x20 ∧ t.pc = 0x8003 ∧ t.cycles = 4) = true := by decide

theorem test_M9_sta : after (step (withCode [0x91, 0xFF] { start with a := 0xAB, y := 0x01, ram := [(0x00, 0x02), (0xFF, 0xFF)] }))
    (fun t => t.ram = [(0x00, 0x02), (0xFF, 0xFF), (0x300, 0xAB)] ∧ t.freeCount = 0 ∧ t.cycles = 5) = true := by decide

theorem test_V5_stx : after (step (withCode [0x96, 0x10] { start with x := 0x33, y := 0x02 }))
    (fun t => t.ram = [(0x12, 0x33)] ∧ t.cycles = 3) = true := by decide

theorem test_V6_sty : after (step (withCode [0x8C, 0x00, 0x08] { start with y := 0x44 }))
    (fun t => t.ram = [(0x00, 0x44)] ∧ t.cycles = 3) = true := by decide

theorem test_V14_adc : after (step (withCode [0x69, 0x00] { start with a := 0x7F, p := 0x21 }))
    (fun t => t.a = 0x80 ∧ t.p = 0xE0 ∧ t.cycles = 1) = true := by decide

theorem test_V17_adc : after (step (withCode [0x69, 0x09] { start with a := 0x09, p := 0x28 }))
    (fun t => t.a = 0x12 ∧ t.p = 0x28 ∧ t.cycles = 1) = true := by decide

theorem test_V22_sbc : after (step (withCode [0xE9, 0x01] { start with a := 0x80, p := 0x21 }))
    (fun t => t.a = 0x7F ∧ t.p = 0x61 ∧ t.cycles = 1) = true := by decide

theorem test_V24_sbc : after (step (withCode [0xE9, 0x50] { start with a := 0x50 }))
    (fun t => t.a = 0xFF ∧ t.p = 0xA0 ∧ t.cycles = 1) = true := by decide

theorem test_V31_inc : after (step (withCode [0xE6, 0x10] { start with p := 0x21, ram := [(0x10, 0xFF)] }))
    (fun t => t.ram = [] ∧ t.p = 0x23 ∧ t.cycles = 4) = true := by decide

theorem test_V33_inc : after (step (withCode [0xFE, 0xFF, 0x00] { start with x := 0x01, ram := [(0x100, 0x01)] }))
    (fun t => t.ram = [(0x100, 0x02)] ∧ t.p = 0x20 ∧ t.cycles = 6) = true := by decide

theorem test_V32_dec : after (step (withCode [0xC6, 0x10] start))
    (fun t => t.ram = [(0x10, 0xFF)] ∧ t.p = 0xA0 ∧ t.cycles = 4) = true := by decide

theorem test_V34_inx : after (step (withCode [0xE8] { start with x := 0xFF }))
    (fun t => t.x = 0x00 ∧ t.p = 0x22 ∧ t.pc = 0x8001 ∧ t.cycles = 1) = true := by decide

theorem test_V35_iny : after (step (withCode [0xC8] { start with y := 0x7F }))
    (fun t => t.y = 0x80 ∧ t.p = 0xA0 ∧ t.cycles = 1) = true := by decide

theorem test_V36_dex : after (step (withCode [0xCA] { start with x := 0x01 }))
    (fun t => t.x = 0x00 ∧ t.p = 0x22 ∧ t.cycles = 1) = true := by decide

theorem test_V37_dey : after (step (withCode [0x88] start))
    (fun t => t.y = 0xFF ∧ t.p = 0xA0 ∧ t.cycles = 1) = true := by decide

theorem test_V40_and : after (step (withCode [0x29, 0x0F] { start with a := 0xF0 }))
    (fun t => t.a = 0x00 ∧ t.p = 0x22 ∧ t.cycles = 1) = true := by decide

theorem test_V41_ora : after (step (withCode [0x09, 0x80] { start with a := 0x0F }))
    (fun t => t.a = 0x8F ∧ t.p = 0xA0 ∧ t.cycles = 1) = true := by decide

theorem test_V42_eor : after (step (withCode [0x49, 0xFF] { start with a := 0xAA }))
    (fun t => t.a = 0x55 ∧ t.p = 0x20 ∧ t.cycles = 1) = true := by decide

theorem test_V43_bit : after (step (withCode [0x24, 0x10] { start with a := 0x01, ram := [(0x10, 0xC0)] }))
    (fun t => t.a = 0x01 ∧ t.p = 0xE2 ∧ t.cycles = 2) = true := by decide

theorem test_V44_bit : after (step (withCode [0x2C, 0x10, 0x00] { start with a := 0xFF, p := 0xE0, ram := [(0x10, 0x3F)] }))
    (fun t => t.p = 0x20 ∧ t.cycles = 3) = true := by decide

theorem test_V50_asl : after (step (withCode [0x0A] { start with a := 0x81 }))
    (fun t => t.a = 0x02 ∧ t.p = 0x21 ∧ t.cycles = 1) = true := by decide

theorem test_V58_asl : after (step (withCode [0x1E, 0x80, 0x00] { start with x := 0xFF, ram := [(0x17F, 0x40)] }))
    (fun t => t.ram = [(0x17F, 0x80)] ∧ t.p = 0xA0 ∧ t.cycles = 6) = true := by decide

theorem test_V53_lsr : after (step (withCode [0x4A] { start with a := 0x01 }))
    (fun t => t.a = 0x00 ∧ t.p = 0x23 ∧ t.cycles = 1) = true := by decide

theorem test_V54_rol : after (step (withCode [0x2A] { start with a := 0x40, p := 0x21 }))
    (fun t => t.a = 0x81 ∧ t.p = 0xA0 ∧ t.cycles = 1) = true := by decide

theorem test_V56_ror : after (step (withCode [0x66, 0x20] { start with p := 0x21, ram := [(0x20, 0x01)] }))
    (fun t => t.ram = [(0x20, 0x80)] ∧ t.p = 0xA1 ∧ t.cycles = 4) = true := by decide

theorem test_V57_ror : after (step (withCode [0x6A] { start with a := 0x01 }))
    (fun t => t.a = 0x00 ∧ t.p = 0x23 ∧ t.cycles = 1) = true := by decide

theorem test_V60_cmp : after (step (withCode [0xC9, 0x20] { start with a := 0x10 }))
    (fun t => t.a = 0x10 ∧ t.p = 0xA0 ∧ t.cycles = 1) = true := by decide

theorem test_V61_cmp : after (step (withCode [0xC9, 0x01] { start with a := 0x80 }))
    (fun t => t.p = 0x21 ∧ t.cycles = 1) = true := by decide

theorem test_V63_cpx : after (step (withCode [0xE0, 0x05] { start with x := 0x05 }))
    (fun t => t.p = 0x23 ∧ t.cycles = 1) = true := by decide

theorem test_V64_cpy : after (step (withCode [0xC0, 0x00] { start with y := 0xFF }))
    (fun t => t.p = 0xA1 ∧ t.cycles = 1) = true := by decide

theorem test_V70_bcc : after (step (withCode [0x90, 0x02] start))
    (fun t => t.pc = 0x8004 ∧ t.cycles = 2) = true := by decide

theorem test_V71_bcc : after (step (withCode [0x90, 0x02] { start with p := 0x21 }))
    (fun t => t.pc = 0x8002 ∧ t.cycles = 1) = true := by decide

theorem test_V72_bcs : after (step (withCode [0xB0, 0x7F] { start with p := 0x21 }))
    (fun t => t.pc = 0x8081 ∧ t.cycles = 2) = true := by decide

theorem test_V73_beq : after (step (withCode [0xF0, 0x01] { start with p := 0x22, pc := 0x80FD }))
    (fun t => t.pc = 0x8100 ∧ t.cycles = 3) = true := by decide

theorem test_V80_beq : after (step (withCode [0xF0, 0x80] { start with p := 0x22, pc := 0x8010 }))
    (fun t => t.pc = 0x7F92 ∧ t.cycles = 3) = true := by decide

theorem test_V74_bmi : after (step (withCode [0x30, 0x10] start))
    (fun t => t.pc = 0x8002 ∧ t.cycles = 1) = true := by decide

theorem test_V79_bne : after (step (withCode [0xD0, 0x7F] { start with pc := 0x8080 }))
    (fun t => t.pc = 0x8101 ∧ t.cycles = 3) = true := by decide

theorem test_V75_bne : after (step (withCode [0xD0, 0xFB] { start with pc := 0x8005 }))
    (fun t => t.pc = 0x8002 ∧ t.cycles = 2) = true := by decide

theorem test_V76_bpl : after (step (withCode [0x10, 0xFC] start))
    (fun t => t.pc = 0x7FFE ∧ t.cycles = 3) = true := by decide

theorem test_V77_bvc : after (step (withCode [0x50, 0x00] start))
    (fun t => t.pc = 0x8002 ∧ t.cycles = 2) = true := by decide

theorem test_V78_bvs : after (step (withCode [0x70, 0xFE] { start with p := 0x60 }))
    (fun t => t.pc = 0x8000 ∧ t.cycles = 2) = true := by decide

theorem test_V90_pha : after (step (withCode [0x48] { start with a := 0x42 }))
    (fun t => t.ram = [(0x1FD, 0x42)] ∧ t.sp = 0xFC ∧ t.cycles = 2) = true := by decide

theorem test_V91_pha : after (step (withCode [0x48] { start with a := 0x42, sp := 0x00 }))
    (fun t => t.ram = [(0x100, 0x42)] ∧ t.sp = 0xFF ∧ t.cycles = 2) = true := by decide

theorem test_V92_php : after (step (withCode [0x08] { start with p := 0x24 }))
    (fun t => t.ram = [(0x1FD, 0x34)] ∧ t.sp = 0xFC ∧ t.p = 0x24 ∧ t.cycles = 2) = true := by decide

theorem test_V94_pla : after (step (withCode [0x68] { start with sp := 0xFF, ram := [(0x100, 0x99)] }))
    (fun t => t.a = 0x99 ∧ t.sp = 0x00 ∧ t.p = 0xA0 ∧ t.cycles = 3) = true := by decide

theorem test_V95_plp : after (step (withCode [0x28] { start with sp := 0xFC, ram := [(0x1FD, 0xFF)] }))
    (fun t => t.p = 0xEF ∧ t.sp = 0xFD ∧ t.cycles = 3) = true := by decide

theorem test_V96_plp : after (step (withCode [0x28] { start with sp := 0xFC, p := 0xEF }))
    (fun t => t.p = 0x20 ∧ t.cycles = 3) = true := by decide

theorem test_V100_jmp : after (step (withCode [0x4C, 0x00, 0x90] start))
    (fun t => t.pc = 0x9000 ∧ t.cycles = 2) = true := by decide

theorem test_V102_jmp : after (step (withCode [0x6C, 0xFF, 0x02] { start with ram := [(0x200, 0x12), (0x2FF, 0x34), (0x300, 0x56)] }))
    (fun t => t.pc = 0x1234 ∧ t.cycles = 4) = true := by decide

theorem test_V103_jsr : after (step (withCode [0x20, 0x10, 0x80] start))
    (fun t => t.ram = [(0x1FC, 0x02), (0x1FD, 0x80)] ∧ t.sp = 0xFB ∧ t.pc = 0x8010 ∧ t.cycles = 5) = true := by decide

theorem test_V104_rts : after (step (withCode [0x60] { start with sp := 0xFB, ram := [(0x1FC, 0x02), (0x1FD, 0x80)] }))
    (fun t => t.pc = 0x8003 ∧ t.sp = 0xFD ∧ t.cycles = 5) = true := by decide

theorem test_V105_rts : after (step (withCode [0x60] { start with sp := 0xFB, ram := [(0x1FC, 0xFF), (0x1FD, 0xFF)] }))
    (fun t => t.pc = 0x0000 ∧ t.cycles = 5) = true := by decide

theorem test_V106_rti : after (step (withCode [0x40] { start with sp := 0xFA, ram := [(0x1FB, 0xA1), (0x1FC, 0x05), (0x1FD, 0x80)] }))
    (fun t => t.p = 0xA1 ∧ t.pc = 0x8005 ∧ t.sp = 0xFD ∧ t.cycles = 5) = true := by decide

theorem test_V107_brk : after (step (withCode [0x00] start))
    (fun t => t.ram = [(0x1FB, 0x30), (0x1FC, 0x02), (0x1FD, 0x80)] ∧ t.sp = 0xFA ∧ t.p = 0x24 ∧ t.pc = 0x9000 ∧ t.cycles = 6) = true := by decide

theorem test_V110_clc : after (step (withCode [0x18] { start with p := 0x25 }))
    (fun t => t.p = 0x24 ∧ t.cycles = 1) = true := by decide

theorem test_V111_cld : after (step (withCode [0xD8] { start with p := 0x2C }))
    (fun t => t.p = 0x24 ∧ t.cycles = 1) = true := by decide

theorem test_V112_cli : after (step (withCode [0x58] { start with p := 0x24 }))
    (fun t => t.p = 0x20 ∧ t.cycles = 1) = true := by decide

theorem test_V113_clv : after (step (withCode [0xB8] { start with p := 0x64 }))
    (fun t => t.p = 0x24 ∧ t.cycles = 1) = true := by decide

theorem test_V114_sec : after (step (withCode [0x38] { start with p := 0x24 }))
    (fun t => t.p = 0x25 ∧ t.cycles = 1) = true := by decide

theorem test_V115_sed : after (step (withCode [0xF8] { start with p := 0x24 }))
    (fun t => t.p = 0x2C ∧ t.cycles = 1) = true := by decide

theorem test_V116_sei : after (step (withCode [0x78] start))
    (fun t => t.p = 0x24 ∧ t.cycles = 1) = true := by decide

theorem test_V117_tax : after (step (withCode [0xAA] { start with a := 0x80 }))
    (fun t => t.x = 0x80 ∧ t.p = 0xA0 ∧ t.cycles = 1) = true := by decide

theorem test_V118_tay : after (step (withCode [0xA8] { start with y := 0x05 }))
    (fun t => t.y = 0x00 ∧ t.p = 0x22 ∧ t.cycles = 1) = true := by decide

theorem test_V119_tsx : after (step (withCode [0xBA] start))
    (fun t => t.x = 0xFD ∧ t.p = 0xA0 ∧ t.cycles = 1) = true := by decide

theorem test_V120_txa : after (step (withCode [0x8A] { start with x := 0x7F }))
    (fun t => t.a = 0x7F ∧ t.p = 0x20 ∧ t.cycles = 1) = true := by decide

theorem test_V121_txs : after (step (withCode [0x9A] { start with x := 0xFF, sp := 0x10, p := 0x22 }))
    (fun t => t.sp = 0xFF ∧ t.p = 0x22 ∧ t.cycles = 1) = true := by decide

theorem test_V122_tya : after (step (withCode [0x98] { start with y := 0xFF }))
    (fun t => t.a = 0xFF ∧ t.p = 0xA0 ∧ t.cycles = 1) = true := by decide

theorem test_V123_nop : after (step (withCode [0xEA] start))
    (fun t => t.pc = 0x8001 ∧ t.p = 0x20 ∧ t.sp = 0xFD ∧ t.events = [] ∧ t.cycles = 1) = true := by decide

theorem test_T7_xxx : after (step (withCode [0x02] { start with a := 0x01, x := 0x02, y := 0x03, sp := 0x04, p := 0xE5 }))
    (fun t => t.a = 0x01 ∧ t.x = 0x02 ∧ t.y = 0x03 ∧ t.sp = 0x04 ∧ t.p = 0xE5 ∧ t.pc = 0x8001 ∧ t.events = [.illegalOpcode 0x02 0x8000] ∧ t.cycles = 1) = true := by decide

/-! ## Ill-formed terms are refused, one for each check -/

theorem test_wf_refuses_wrong_modes :
    (Instr.lda (.zpy 0x10)).wf = false ∧ (Instr.adc .imp).wf = false ∧ (Instr.sbc (.ind 0x1234)).wf = false ∧
    (Instr.and (.rel 0x10)).wf = false ∧ (Instr.ora (.zpy 0x10)).wf = false ∧ (Instr.eor .imp).wf = false ∧
    (Instr.cmp (.ind 0x1234)).wf = false ∧ (Instr.ldx (.zpx 0x10)).wf = false ∧ (Instr.ldx (.abx 0x1234)).wf = false ∧
    (Instr.ldy (.zpy 0x10)).wf = false ∧ (Instr.ldy (.aby 0x1234)).wf = false ∧ (Instr.sta (.imm 0x10)).wf = false ∧
    (Instr.stx (.zpx 0x10)).wf = false ∧ (Instr.sty (.abx 0x1234)).wf = false := by decide

theorem test_wf_refuses_wrong_modes_2 :
    (Instr.inc .imp).wf = false ∧ (Instr.dec (.aby 0x1234)).wf = false ∧ (Instr.asl (.imm 0x10)).wf = false ∧
    (Instr.lsr (.aby 0x1234)).wf = false ∧ (Instr.rol (.izx 0x10)).wf = false ∧ (Instr.ror (.zpy 0x10)).wf = false ∧
    (Instr.bit (.imm 0x10)).wf = false ∧ (Instr.cpx (.zpx 0x10)).wf = false ∧ (Instr.cpy (.abx 0x1234)).wf = false ∧
    (Instr.jmp (.zp0 0x10)).wf = false ∧ (Instr.xxx 0xA9).wf = false ∧ (Instr.asl .imp).wf = true := by decide

/-! ## Words written out from the encodings of spec/30_encoding.md R80, R82, R84 -/

theorem test_decode_load_store :
    decodeTableWord 16 0x80A9 = some (.lda (.imm 0x80)) ∧ decodeTableWord 16 0xFEA1 = some (.lda (.izx 0xFE)) ∧
    decodeTableWord 16 0xFFB6 = some (.ldx (.zpy 0xFF)) ∧ decodeTableWord 24 0x02FFBC = some (.ldy (.abx 0x02FF)) ∧
    decodeTableWord 24 0x02F299 = some (.sta (.aby 0x02F2)) ∧ decodeTableWord 16 0x1086 = some (.stx (.zp0 0x10)) ∧
    decodeTableWord 24 0x08008C = some (.sty (.abs 0x0800)) := by decide

theorem test_decode_arithmetic :
    decodeTableWord 16 0x1071 = some (.adc (.izy 0x10)) ∧ decodeTableWord 16 0x10F5 = some (.sbc (.zpx 0x10)) ∧
    decodeTableWord 24 0x00FFFE = some (.inc (.abx 0x00FF)) ∧ decodeTableWord 16 0x10C6 = some (.dec (.zp0 0x10)) ∧
    decodeTableWord 8 0xE8 = some .inx ∧ decodeTableWord 8 0xC8 = some .iny ∧ decodeTableWord 8 0xCA = some .dex ∧
    decodeTableWord 8 0x88 = some .dey := by decide

theorem test_decode_logical :
    decodeTableWord 16 0x0F29 = some (.and (.imm 0x0F)) ∧ decodeTableWord 24 0x12341D = some (.ora (.abx 0x1234)) ∧
    decodeTableWord 16 0x2051 = some (.eor (.izy 0x20)) ∧ decodeTableWord 24 0x00102C = some (.bit (.abs 0x0010)) := by
  decide

theorem test_decode_shift :
    decodeTableWord 8 0x0A = some (.asl .imp) ∧ decodeTableWord 16 0x1056 = some (.lsr (.zpx 0x10)) ∧
    decodeTableWord 24 0x12342E = some (.rol (.abs 0x1234)) ∧ decodeTableWord 16 0x2066 = some (.ror (.zp0 0x20)) := by
  decide

theorem test_decode_compare :
    decodeTableWord 24 0x1234D9 = some (.cmp (.aby 0x1234)) ∧ decodeTableWord 16 0x05E0 = some (.cpx (.imm 0x05)) ∧
    decodeTableWord 16 0x10C4 = some (.cpy (.zp0 0x10)) := by decide

theorem test_decode_branch :
    decodeTableWord 16 0x0290 = some (.bcc 0x02) ∧ decodeTableWord 16 0x7FB0 = some (.bcs 0x7F) ∧
    decodeTableWord 16 0x01F0 = some (.beq 0x01) ∧ decodeTableWord 16 0x1030 = some (.bmi 0x10) ∧
    decodeTableWord 16 0xF9D0 = some (.bne 0xF9) ∧ decodeTableWord 16 0xFC10 = some (.bpl 0xFC) ∧
    decodeTableWord 16 0x0050 = some (.bvc 0x00) ∧ decodeTableWord 16 0xFE70 = some (.bvs 0xFE) := by decide

theorem test_decode_stack_and_jump :
    decodeTableWord 8 0x48 = some .pha ∧ decodeTableWord 8 0x08 = some .php ∧ decodeTableWord 8 0x68 = some .pla ∧
    decodeTableWord 8 0x28 = some .plp ∧ decodeTableWord 24 0x02FF6C = some (.jmp (.ind 0x02FF)) ∧
    decodeTableWord 24 0x801020 = some (.jsr 0x8010) ∧ decodeTableWord 8 0x60 = some .rts ∧
    decodeTableWord 8 0x40 = some .rti ∧ decodeTableWord 8 0x00 = some .brk := by decide

theorem test_decode_flags_and_transfers :
    decodeTableWord 8 0x18 = some .clc ∧ decodeTableWord 8 0xD8 = some .cld ∧ decodeTableWord 8 0x58 = some .cli ∧
    decodeTableWord 8 0xB8 = some .clv ∧ decodeTableWord 8 0x38 = some .sec ∧ decodeTableWord 8 0xF8 = some .sed ∧
    decodeTableWord 8 0x78 = some .sei ∧ decodeTableWord 8 0xAA = some .tax ∧ decodeTableWord 8 0xA8 = some .tay ∧
    decodeTableWord 8 0xBA = some .tsx ∧ decodeTableWord 8 0x8A = some .txa ∧ decodeTableWord 8 0x9A = some .txs ∧
    decodeTableWord 8 0x98 = some .tya ∧ decodeTableWord 8 0xEA = some .nop := by decide

theorem test_decode_illegal :
    decodeTableWord 8 0x02 = some (.xxx 0x02) ∧ decodeTableWord 8 0xFF = some (.xxx 0xFF) ∧
    decodeTableWord 8 0x9E = some (.xxx 0x9E) := by decide

/-- Bytes that end too early are refused by name, and a word shorter than its instruction has operand bytes of zero. -/
theorem test_decode_short_words :
    (match decode [] with | .error .noOpcode => true | _ => false) = true ∧
    (match decode [0xAD, 0x34] with | .error (.operandMissing 0xAD) => true | _ => false) = true ∧
    decodeTableWord 8 0xA9 = some (.lda (.imm 0x00)) := by decide

/-! ## The bus, the host calls and the placing of an instruction -/

/-- B1, B2, B4: mapper 000, a discarded ROM write, an unmapped address. -/
theorem test_B1_B2_B4_bus :
    let s := withCode [0xAA, 0xBB] start
    (busRead 0x8000 false s).1 = 0xAA ∧ (busRead 0xC001 false s).1 = 0xBB ∧ (busRead 0xFFFD false s).1 = 0x80 ∧
    (busRead 0xBFFD false s).1 = 0x80 ∧ (busWrite 0x8000 0x55 s).ram = [] ∧
    (busRead 0x8000 false (busWrite 0x8000 0x55 s)).1 = 0xAA ∧ (busRead 0x5000 false s).1 = 0x00 := by decide

/-- T1: RAM mirroring. -/
theorem test_T1_ram_mirror :
    (busRead 0x1800 false (busWrite 0x0000 0x12 start)).1 = 0x12 ∧ (busWrite 0x1FFF 0x34 start).ram = [(0x7FF, 0x34)] := by
  decide

/-- B7, B8: nametable mirroring and the folded palette entry. -/
theorem test_B7_B8_ppu_port :
    ppuRead cart 0x2805 (ppuWrite cart 0x2005 0x11 start) = 0x11 ∧ ppuRead cart 0x2405 (ppuWrite cart 0x2005 0x11 start) = 0 ∧
    (ppuWrite cart 0x3F10 0x2A start).palette = [(0, 0x2A)] ∧ ppuRead cart 0x3F20 (ppuWrite cart 0x3F10 0x2A start) = 0x2A ∧
    (ppuWrite cart 0x3F11 0x2B start).palette = [(0x11, 0x2B)] := by decide

/-- I1, I2: the interrupt inputs from PC = 8020, SP = FD, P = 21. -/
theorem test_I1_I2_interrupts :
    let s := { start with pc := 0x8020, p := 0x21 }
    after (hostCall .nmi s) (fun t => t.ram = [(0x1FB, 0x21), (0x1FC, 0x20), (0x1FD, 0x80)] ∧ t.sp = 0xFA ∧ t.p = 0x25 ∧
      t.pc = 0x9010 ∧ t.cycles = 7) = true ∧
    after (hostCall .irq s) (fun t => t.ram = [(0x1FB, 0x21), (0x1FC, 0x20), (0x1FD, 0x80)] ∧ t.sp = 0xFA ∧ t.p = 0x25 ∧
      t.pc = 0x9000 ∧ t.cycles = 7) = true := by decide

/-- I3, I5: a masked `irq()` changes nothing, and `nmi()` without `NMI_SETS_I` leaves I alone. -/
theorem test_I3_I5_interrupts :
    after (hostCall .irq { start with p := 0x25 }) (fun t => t = { start with p := 0x25 }) = true ∧
    after (hostCall .nmi { start with p := 0x21, params := { Params.default with nmiSetsI := false } })
      (fun t => t.p = 0x21 ∧ t.pc = 0x9010) = true := by decide

/-- T8: `Bus.reset()`. -/
theorem test_T8_reset :
    after (hostCall .reset { start with sysclk := 1000, scanline := 1, cycle := 318 }) (fun t => t.pc = 0x8000 ∧
      t.p = 0x24 ∧ t.sp = 0xFD ∧ t.cycles = 7 ∧ t.sysclk = 0 ∧ t.scanline = 1 ∧ t.cycle = 318) = true := by decide

/-- A placed word is the instruction that the very next step runs, from reset and at a PC without storage. -/
theorem test_withFetchWord :
    after (step (State.reset.withFetchWord 24 0x80A9)) (fun t => t.a = 0x80 ∧ t.cycles = 1 ∧ t.opcode = 0xA9) = true ∧
    after (step (({ start with pc := 0x2000 }).withFetchWord 24 0x90004C)) (fun t => t.pc = 0x9000 ∧ t.cycles = 2) = true ∧
    after (step (({ start with pc := 0x9000 }).withFetchWord 8 0xE8)) (fun t => t.x = 1 ∧ t.pc = 0x9001) = true := by decide

/-! ## Witnesses: states and operands that meet the hypotheses of the statements -/

theorem test_cart_wf : cart.Wf where
  prg := ⟨⟨by decide, by decide⟩, by decide⟩
  chr := Memory.fits_nil _
  mapperId := rfl
  chrBanks := rfl
  valid := rfl

/-- A state that satisfies the invariant, with a cartridge inserted and RAM in use. -/
def used : State := { start with ram := [(0x10, 0x7F), (0x1FD, 0x80)], nametable0 := [(0x3FF, 0x01)], palette := [(0x1F, 0x02)] }

theorem witness_inv : used.Inv where
  ram := ⟨⟨by decide, by decide⟩, by decide⟩
  nametable0 := ⟨⟨by decide, by decide⟩, by decide⟩
  nametable1 := Memory.fits_nil _
  palette := ⟨⟨by decide, by decide⟩, by decide⟩
  cart c h := by
    cases h
    exact test_cart_wf
  scanlineLow := by decide
  scanlineHigh := by decide
  cycle := by decide
  unusedSet _ := by decide
  breakClear _ := by decide
  noCartYet h := by cases h
  cycles := by decide

/-- EveryStepKeepsTheInvariant: a state of the invariant that steps. -/
theorem witness_step_of_inv : used.Inv ∧ after (step used) (fun _ => true) = true := ⟨witness_inv, by decide⟩

/-- DecodeEncodeRoundTrip, BaseCyclesMatchTimingTable. -/
theorem witness_wf : (Instr.sta (.abx 0xFFFF)).wf = true ∧ (Instr.xxx 0xFF).wf = true := by decide

/-- EncodeDecodeRoundTrip. -/
theorem witness_decodes :
    (match decode [0x6C, 0xFF, 0x02, 0x00] with | .ok (.jmp (.ind 0x02FF), [0x00]) => true | _ => false) = true := by decide

/-- IllegalOpcodesShareOneDescriptor: both clauses. -/
theorem witness_illegal : (0x02 : Byte) ∈ illegalOpcodes ∧ (0xFF : Byte) ∈ illegalOpcodes ∧ (0x00 : Byte) ∉ illegalOpcodes := by
  decide

/-- StepRunsTheDecodedInstruction, at the address wrap (vector M14). -/
theorem witness_step_runs :
    let s := { start with pc := 0xFFFF, ram := [(0, 0x42)], cart := some { cart with prg := [(0x3FFF, 0xA9)] } }
    s.Clocked ∧ s.cycles = 0 ∧ (s.sysclk + 1) % 3 = 0 ∧
    (match decode [0xA9, 0x42] with | .ok (.lda (.imm 0x42), []) => true | _ => false) = true ∧
    peek (s.pc + 0) s = some 0xA9 ∧ peek (s.pc + 1) s = some 0x42 := by
  refine ⟨⟨rfl, rfl⟩, ?_⟩
  decide

/-- CpuAdvancesOnEveryThirdTick: both clauses. -/
theorem witness_ticks :
    State.reset.Clocked ∧ (State.reset.sysclk + 1) % 3 ≠ 0 ∧ ({ State.reset with sysclk := 2 } : State).Clocked ∧
    (({ State.reset with sysclk := 2 } : State).sysclk + 1) % 3 = 0 ∧ ({ State.reset with sysclk := 2 } : State).cycles ≠ 0 := by
  refine ⟨⟨rfl, rfl⟩, by decide, ⟨rfl, rfl⟩, by decide, by decide⟩

/-- PpuTickAdvancesTheCounters: the three clauses where they meet. -/
theorem witness_ppu_tick :
    let s := { start with scanline := 260, cycle := 339 }
    let t := { start with scanline := 259, cycle := 340 }
    let u := { start with scanline := 260, cycle := 340 }
    (s.Clocked ∧ s.cycle ≠ 340) ∧ (t.Clocked ∧ t.cycle = 340 ∧ t.scanline ≠ 260) ∧
    (u.Clocked ∧ u.cycle = 340 ∧ u.scanline = 260) := by
  exact ⟨⟨⟨rfl, rfl⟩, by decide⟩, ⟨⟨rfl, rfl⟩, by decide, by decide⟩, ⟨⟨rfl, rfl⟩, by decide, by decide⟩⟩

/-- FrameCompletesAfter89342Ticks, RemainingCyclesOnlyCountDown, FirstFetchAfterReset, ClockedMachineNeverStops. -/
theorem witness_runs :
    State.reset.Clocked ∧ State.reset.scanline = -1 ∧ State.reset.cycle = 0 ∧ State.reset.sysclk % 3 = 0 ∧
    State.reset.driver = [] := ⟨⟨rfl, rfl⟩, by decide⟩

/-- InstructionsLeaveTheRestOfTheMachineAlone: the two clauses on the mode. -/
theorem witness_modes :
    (Instr.bne 0xFF).operand = .rel 0xFF ∧ (Instr.asl .imp).operand.mode = .imp ∧ (Instr.sta (.zp0 0)).operand.mode ≠ .rel := by
  decide

/-- OnlyListedInstructionsWriteEachFlag: a step of `exec` that changes each flag. -/
theorem witness_flag_changes :
    after (exec .sec used) (fun t => t.flag .c ≠ used.flag .c) = true ∧
    after (exec (.lda (.imm 0)) used) (fun t => t.flag .z ≠ used.flag .z) = true ∧
    after (exec (.lda (.imm 0x80)) used) (fun t => t.flag .n ≠ used.flag .n) = true ∧
    after (exec .sei used) (fun t => t.flag .i ≠ used.flag .i) = true ∧
    after (exec .sed used) (fun t => t.flag .d ≠ used.flag .d) = true ∧
    after (exec .plp { used with p := 0x10 }) (fun t => t.flag .b ≠ true ∧ t.flag .u ≠ false) = true ∧
    after (exec (.bit (.zp0 0x10)) used) (fun t => t.flag .v ≠ used.flag .v) = true := by decide

/-- OnlyListedInstructionsWriteEachRegister: a well-formed instruction that changes each register. -/
theorem witness_register_changes :
    (Instr.lsr .imp).wf = true ∧
    after (exec (.lsr .imp) { used with a := 1 }) (fun t => t.reg .a ≠ 1) = true ∧
    after (exec .inx used) (fun t => t.reg .x ≠ used.reg .x) = true ∧
    after (exec .dey used) (fun t => t.reg .y ≠ used.reg .y) = true ∧
    after (exec .pha used) (fun t => t.reg .sp ≠ used.reg .sp) = true := by decide

/-- The address ranges of the bus statements, at their ends: RAM mirrors, writes outside RAM, unmapped addresses with and
without a cartridge, PPU registers, program ROM. -/
theorem witness_bus_ranges :
    (0x1FFF : Word).toNat < 0x2000 ∧ (0x07FF : Word).toNat % 0x800 = (0x1FFF : Word).toNat % 0x800 ∧
    0x2000 ≤ (0x2000 : Word).toNat ∧ (0x4000 ≤ (0x7FFF : Word).toNat ∧ (0x7FFF : Word).toNat < 0x8000) ∧
    (0x4000 ≤ (0xFFFF : Word).toNat ∧ State.reset.cart = none) ∧
    (0x2000 ≤ (0x3FFF : Word).toNat ∧ (0x3FFF : Word).toNat < 0x4000) ∧
    (used.cart = some cart ∧ cart.mapperId = 0 ∧ 0x8000 ≤ (0x8000 : Word).toNat) := by decide

/-- Any bytes of the right number load as mapper 000 with one bank of each kind. -/
theorem test_load_one_bank (prg chr : List Byte) (hp : prg.length = 16384) (hc : chr.length = 8192) :
    (loadCartridge ⟨prg, chr, 0, 1, 1, .vertical⟩).isSome = true := by
  simp [loadCartridge, prgBanksOf, hp, hc]

/-- LoadAcceptsExactlyWellFormedBundles, CallsOutOfOrderAreRefused: a bundle that loads and one that does not (vector B10). -/
theorem witness_load :
    (∃ b, (loadCartridge b).isSome = true) ∧ loadCartridge ⟨[], [], 1, 1, 1, .vertical⟩ = none :=
  ⟨⟨_, test_load_one_bank (List.replicate _ 0) (List.replicate _ 0) List.length_replicate List.length_replicate⟩, rfl⟩

/-- PpuPortReadsByAddress, PpuPortWritesAreReadBack: each clause at an end of its range. -/
theorem witness_ppu_port :
    cart.mapperId = 0 ∧ (0x1FFF : Word).toNat % 0x4000 < 0x2000 ∧
    (0x2000 ≤ (0x2400 : Word).toNat % 0x4000 ∧ (0x2400 : Word).toNat / 0x400 % 2 = 1) ∧
    ((0x3EFF : Word).toNat % 0x4000 < 0x3F00 ∧ ¬ (0x2BFF : Word).toNat / 0x400 % 2 = 1) ∧
    (0x3F00 ≤ (0x3F10 : Word).toNat % 0x4000 ∧ (0x3F10 : Word).toNat % 0x20 ∈ [0x10, 0x14, 0x18, 0x1C]) ∧
    (0x3F00 ≤ (0x7F00 : Word).toNat % 0x4000 ∧ (0x3F1F : Word).toNat % 0x20 ∉ [0x10, 0x14, 0x18, 0x1C]) := by decide

/-- PpuPortWritesAreReadBack: two addresses that select one byte, and two that do not, at ends of the ranges. -/
theorem witness_ppu_bytes :
    (ppuByte .vertical 0x2000 ≠ none ∧ ppuByte .vertical 0x2800 = ppuByte .vertical 0x2000) ∧
    ppuByte .vertical 0x2400 ≠ ppuByte .vertical 0x2000 ∧ ppuByte .vertical 0x1FFF ≠ ppuByte .vertical 0x2000 ∧
    ppuByte .horizontal 0x3F1C = ppuByte .horizontal 0x3F0C ∧ ppuByte .horizontal 0x3F1C ≠ some (.palette 0x1C) ∧
    ppuByte .oneScreenLo 0x3EFF = some (.nametable0 0x2FF) := by decide

/-- IndirectModeHasThePageBug: a pointer at the end of its page and one that is not. -/
theorem witness_indirect :
    peek 0x02FF used = some 0x00 ∧ peek (BitVec.ofNat 16 ((0x02FF : Word).toNat - 255)) used = some 0x00 ∧
    peek 0x01FC used = some 0x00 ∧ peek (0x01FC + 1) used = some 0x80 := by decide

/-- DataByteComesFromTheEffectiveAddress: an address with storage and a PPU register. -/
theorem witness_data_byte :
    peek (effAddr (.zp0 0x10) used) used = some 0x7F ∧ peek (effAddr (.abs 0x2002) used) used = none := by decide

/-- DecimalFlagChangesNoResult. -/
theorem witness_decimal :
    after (exec (.adc (.imm 0x09)) used) (fun _ => true) = true ∧
    after (exec (.sbc (.imm 0x09)) (used.setFlag .d true)) (fun _ => true) = true := by decide

/-- RtsUndoesJsr, RtiUndoesEveryEntry: each entry is taken in a state of the invariant, and the state it gives is the `u`. -/
theorem witness_entries :
    used.Inv ∧ used.phase = .running ∧ after (exec (.jsr 0x9000) used) (fun _ => true) = true ∧ used.flag .i = false ∧
    after (hostCall .irq used) (fun _ => true) = true ∧ after (hostCall .nmi used) (fun _ => true) = true ∧
    after (exec .brk used) (fun _ => true) = true := ⟨witness_inv, by decide⟩

/-- InterruptInputsEnterTheirHandlers: I set and I clear. -/
theorem witness_interrupt_inputs :
    used.Inv ∧ used.phase = .running ∧ used.flag .i = false ∧ (used.setFlag .i true).flag .i = true := ⟨witness_inv, by decide⟩

/-- The machine with no cartridge yet, before its first call. -/
def fresh : State := State.construct Params.default none [] ⟨[], [], []⟩

/-- Any other call ends the time for a load, a cartridge in place too, and the load itself (R8: "before any of them"). -/
theorem test_load_comes_first :
    fresh.phase = .loading ∧ (State.construct Params.default (some cart) [] ⟨[], [], []⟩).phase = .built ∧
    after (hostCall .clearFrameComplete fresh) (fun t => t.phase = .built) = true ∧
    after (hostCall (.busWrite 0x0000 0x01) fresh) (fun t => t.phase = .built) = true ∧
    after (served (fresh.setCart (some cart))) (fun t => t.phase = .built ∧ t.cart = some cart) = true := by decide

theorem test_second_load_refused :
    hostCall (.load ⟨[], [], 0, 1, 1, .vertical⟩) (fresh.setPhase .built) = .refused .loadNotFirst := rfl

/-- CallsOutOfOrderAreRefused: each phase, a queue empty and not, with a cartridge and without. -/
theorem witness_out_of_order :
    fresh.phase = .loading ∧ fresh.phase ≠ .running ∧ State.reset.phase = .running ∧ State.reset.phase ≠ .loading ∧
    State.reset.cart = none ∧ start.cart = some cart ∧ start.driver = [] ∧
    ({ start with driver := [.irq] } : State).driver = .irq :: [] := by decide

/-- The statements that name several instructions of one shape: a state of the invariant and a member of each list. -/
theorem witness_shapes_load_store_modify :
    used.Inv ∧ (Instr.ldx (.imm 1), Reg.x) ∈ [(Instr.lda (.imm 1), Reg.a), (.ldx (.imm 1), .x), (.ldy (.imm 1), .y)] ∧
    (Instr.sty (.zp0 1), used.y) ∈ [(Instr.sta (.zp0 1), used.a), (.stx (.zp0 1), used.x), (.sty (.zp0 1), used.y)] ∧
    (Instr.dec (.zp0 0x10), dataByte (.zp0 0x10) used - 1) ∈
      [(Instr.inc (.zp0 0x10), dataByte (.zp0 0x10) used + 1), (.dec (.zp0 0x10), dataByte (.zp0 0x10) used - 1)] ∧
    (Instr.lsr .imp, BitVec.ofNat 8 ((dataByte .imp used).toNat / 2), (dataByte .imp used).getLsbD 0) ∈
      [(Instr.asl .imp, BitVec.ofNat 8 (2 * (dataByte .imp used).toNat), (dataByte .imp used).getLsbD 7),
       (.lsr .imp, BitVec.ofNat 8 ((dataByte .imp used).toNat / 2), (dataByte .imp used).getLsbD 0)] :=
  ⟨witness_inv, by simp⟩

theorem witness_shapes_rotate_push :
    used.Inv ∧ (Instr.ror (.zp0 0x10), BitVec.ofNat 8 (0x7F / 2 + 128 * (used.flag .c).toNat), true) ∈
      [(Instr.rol (.zp0 0x10), BitVec.ofNat 8 (2 * (dataByte (.zp0 0x10) used).toNat + (used.flag .c).toNat),
        (dataByte (.zp0 0x10) used).getLsbD 7),
       (.ror (.zp0 0x10), BitVec.ofNat 8 ((dataByte (.zp0 0x10) used).toNat / 2 + 128 * (used.flag .c).toNat),
        (dataByte (.zp0 0x10) used).getLsbD 0)] ∧
    (Instr.php, (0x08 : Byte), used.p ||| 0x30) ∈ [(Instr.pha, 0x48, used.a), (.php, (0x08 : Byte), used.p ||| 0x30)] :=
  ⟨witness_inv, by decide⟩

theorem witness_shapes_registers :
    (Instr.iny, (0xC8 : Byte), Reg.y, used.y + 1) ∈
      [(Instr.inx, 0xE8, Reg.x, used.x + 1), (.iny, 0xC8, .y, used.y + 1), (.dex, 0xCA, .x, used.x - 1),
       (.dey, (0x88 : Byte), .y, used.y - 1)] ∧
    (Instr.cpx (.imm 5), used.x, false) ∈
      [(Instr.cmp (.imm 5), used.a, true), (.cpx (.imm 5), used.x, false), (.cpy (.imm 5), used.y, false)] ∧
    (Instr.bvs 0xFE, (0x70 : Byte), used.flag .v) ∈
      [(Instr.bcc 0xFE, 0x90, !used.flag .c), (.bcs 0xFE, 0xB0, used.flag .c), (.beq 0xFE, 0xF0, used.flag .z),
       (.bmi 0xFE, 0x30, used.flag .n), (.bne 0xFE, 0xD0, !used.flag .z), (.bpl 0xFE, 0x10, !used.flag .n),
       (.bvc 0xFE, 0x50, !used.flag .v), (.bvs 0xFE, (0x70 : Byte), used.flag .v)] ∧
    (Instr.sei, (0x78 : Byte), Flag.i, true) ∈
      [(Instr.clc, 0x18, Flag.c, false), (.cld, 0xD8, .d, false), (.cli, 0x58, .i, false), (.clv, 0xB8, .v, false),
       (.sec, 0x38, .c, true), (.sed, 0xF8, .d, true), (.sei, (0x78 : Byte), .i, true)] ∧
    (Instr.tya, (0x98 : Byte), used.y, Reg.a) ∈
      [(Instr.tax, 0xAA, used.a, Reg.x), (.tay, 0xA8, used.a, .y), (.tsx, 0xBA, used.sp, .x), (.txa, 0x8A, used.x, .a),
       (.tya, (0x98 : Byte), used.y, .a)] := by
  decide

theorem witness_shapes_logical (o : Operand) :
    (Instr.eor o, Bool.xor) ∈ [(Instr.and o, (· && ·)), (.ora o, (· || ·)), (.eor o, Bool.xor)] := by simp

end Sys2Proof.Tests
end

/-! # The clocked machine never stops

Every instruction completes and leaves the rest of the machine alone, so a master clock tick does too, and so does
every run of them. -/

namespace Sys2Proof.Machine

/-! ## Every instruction completes -/

/-- The result is a next state, with all that no instruction changes as in `s`. -/
def Completes (s : State) (r : Result) : Prop := ∃ t, r = .next t ∧ SameOutside s t

section
variable {i : Instr} {o : Operand} {s : State}

theorem readOp_completes {b : Bool} {act : Byte → State → State} (hact : ∀ m u, SameOutside u (act m u)) :
    Completes s (readOp i o b act s) :=
  ⟨_, rfl, ((frame_operandsRead o s).outside.trans (hact _ _)).trans (frame_charge _ _ _ _ _).outside⟩

theorem storeOp_completes {v : Byte} : Completes s (storeOp i o v s) :=
  ⟨_, rfl, ((frame_addrMode s o).trans ((frame_memWrite _ _ v).trans (frame_charge _ _ _ _ _))).outside⟩

theorem modifyOp_completes {act : Byte → State → Byte × State} (hact : ∀ m u, SameOutside u (act m u).2) :
    Completes s (modifyOp i o act s) :=
  ⟨_, rfl, ((frame_operandsRead o s).outside.trans (hact _ _)).trans
    ((frame_writeback _ o _).trans (frame_charge _ _ _ _ _)).outside⟩

theorem addressOp_completes {act : Word → State → State} (hact : ∀ w u, SameOutside u (act w u)) :
    Completes s (addressOp i o act s) :=
  ⟨_, rfl, ((frame_addrMode s o).outside.trans (hact _ _)).trans (frame_charge _ _ _ _ _).outside⟩

theorem impliedOp_completes {act : State → State} (hact : ∀ u, SameOutside u (act u)) :
    Completes s (impliedOp i act s) :=
  ⟨_, rfl, ((frame_addrMode s .imp).outside.trans (hact _)).trans (frame_charge _ _ _ _ _).outside⟩

theorem branchOp_completes {d : Byte} {cond : State → Bool} : Completes s (branchOp i d cond s) := by
  have hmode := frame_addrMode s (.rel d)
  unfold branchOp
  dsimp only
  split
  case isTrue =>
    exact ⟨_, rfl, (hmode.trans
      ((frame_setAddrAbs _ _).trans ((frame_setPc _ _).trans (frame_charge _ _ _ _ _)))).outside⟩
  case isFalse => exact ⟨_, rfl, (hmode.trans (frame_charge _ _ _ _ _)).outside⟩

end

theorem report_sameOutside (s : State) (e : Event) : SameOutside s (s.report e) := by constructor <;> rfl

/-- No instruction traps, and none touches the clock counter, the PPU, the cartridge or what belongs to the host
(R66, R240): each is one of the shapes above around an act on registers, flags and the stack. -/
theorem exec_completes (i : Instr) (s : State) : Completes s (exec i s) := by
  unfold exec
  cases i with
  | lda o | and o | ora o | eor o =>
    exact readOp_completes fun _ u => ((frame_setA u _).trans (frame_setZN _ _)).outside
  | ldx o => exact readOp_completes fun _ u => ((frame_setX u _).trans (frame_setZN _ _)).outside
  | ldy o => exact readOp_completes fun _ u => ((frame_setY u _).trans (frame_setZN _ _)).outside
  | adc o | sbc o => exact readOp_completes fun _ u => (frame_addToA u _).outside
  | cmp o | cpx o | cpy o => exact readOp_completes fun _ u => (frame_compareWith u _ _).outside
  | bit o => exact readOp_completes fun _ u => (frame_bitTest u _).outside
  | sta o | stx o | sty o => exact storeOp_completes
  | inc o | dec o => exact modifyOp_completes fun _ u => (frame_setZN u _).outside
  | asl o | lsr o | rol o | ror o => exact modifyOp_completes fun _ u => (frame_shifted u _ _).outside
  | bcc d | bcs d | beq d | bmi d | bne d | bpl d | bvc d | bvs d => exact branchOp_completes
  | jmp o => exact addressOp_completes fun _ u => (frame_setPc u _).outside
  | jsr w => exact addressOp_completes fun _ u => ((frame_pushWord u _).trans (frame_setPc _ _)).outside
  | inx | dex | tax | tsx => exact impliedOp_completes fun u => ((frame_setX u _).trans (frame_setZN _ _)).outside
  | iny | dey | tay => exact impliedOp_completes fun u => ((frame_setY u _).trans (frame_setZN _ _)).outside
  | txa | tya => exact impliedOp_completes fun u => ((frame_setA u _).trans (frame_setZN _ _)).outside
  | txs => exact impliedOp_completes fun u => (frame_setSp u _).outside
  | clc | cld | cli | clv | sec | sed | sei => exact impliedOp_completes fun u => (frame_setFlag u _ _).outside
  | pha | php => exact impliedOp_completes fun u => (frame_push u _).outside
  | pla =>
    exact impliedOp_completes fun u => (((frame_pull u).trans (frame_setA _ _)).trans (frame_setZN _ _)).outside
  | plp => exact impliedOp_completes fun u => ((frame_pull u).trans (frame_setP _ _)).outside
  | rts => exact impliedOp_completes fun u => ((frame_pullWord u).trans (frame_setPc _ _)).outside
  | rti => exact impliedOp_completes fun u => (frame_returnFromInterrupt u).outside
  | brk =>
    exact impliedOp_completes fun u => (frame_takeInterrupt u _ _ _ irqVector (by decide) (by decide)).outside
  | nop => exact impliedOp_completes SameOutside.refl
  | xxx op => exact impliedOp_completes fun u => report_sameOutside u _

/-! ## Every clocked step completes -/

theorem countDown_sameOutside (s : State) : SameOutside s (countDown s) := by constructor <;> rfl

theorem fetch_sameOutside (s : State) : SameOutside s (fetch s).2 := by constructor <;> simp

/-- A CPU tick counts down, after an instruction when no cycles are left. -/
theorem cpuClock_completes (s : State) : Completes s (cpuClock s) := by
  by_cases hc : s.cycles = 0
  · obtain ⟨t, ht, hst⟩ := exec_completes (fetch s).1 (fetch s).2
    refine ⟨countDown t, ?_, ((fetch_sameOutside s).trans hst).trans (countDown_sameOutside t)⟩
    rw [cpuClock_fetch hc, ht, onNext]
  · exact ⟨countDown s, cpuClock_countDown hc, countDown_sameOutside s⟩

/-- Outside what instructions change, a clocked step is the count and one PPU tick (R256). -/
theorem step_completes_of_clocked {s : State} (hs : s.Clocked) :
    Completes (ppuClock (s.setSysclk (s.sysclk + 1))) (step s) := by
  obtain ⟨hphase, hdriver⟩ := hs
  rw [step_clocked hphase hdriver]
  by_cases h3 : (s.sysclk + 1) % 3 = 0
  · rw [busClock_cpu h3]
    exact cpuClock_completes _
  · exact ⟨_, busClock_ppuOnly h3, SameOutside.refl _⟩

theorem step_keeps_clocked {s : State} (hs : s.Clocked) : ∃ t, step s = .next t ∧ t.Clocked := by
  obtain ⟨t, ht, hout⟩ := step_completes_of_clocked hs
  obtain ⟨hphase, hdriver⟩ := hs
  exact ⟨t, ht, hout.phase.trans (by simpa using hphase), hout.driver.trans (by simpa using hdriver)⟩

/-! ## Every clocked run completes -/

theorem runsTo_zero (s : State) : RunsTo s 0 s := rfl

theorem run_succ_of_step (M : Host.Core) {s u : M.State} (n : Nat) (hstep : M.step s = .next u) :
    M.run (n + 1) s = M.run n u := by
  rw [Host.Core.run, hstep]

theorem runsTo_succ {s u t : State} {n : Nat} (hstep : step s = .next u) (hrun : RunsTo u n t) :
    RunsTo s (n + 1) t :=
  (run_succ_of_step Sys2Proof.core n hstep).trans hrun

/-- Settles O13, by induction on the number of steps: a clocked state steps to a clocked state. -/
theorem clockedMachineNeverStops : Obligations.ClockedMachineNeverStops := by
  unfold Obligations.ClockedMachineNeverStops
  intro s n hs
  induction n generalizing s with
  | zero => exact ⟨s, runsTo_zero s, hs⟩
  | succ n ih =>
    obtain ⟨u, hstep, hu⟩ := step_keeps_clocked hs
    obtain ⟨t, hrun, ht⟩ := ih u hu
    exact ⟨t, runsTo_succ hstep hrun, ht⟩

end Sys2Proof.Machine

/-! # What each instruction can write

The registers and flags an instruction can write, read off from its constructor and operand, and one walk over the
instructions that holds `exec` to them. -/

namespace Sys2Proof.Machine

/-! ## The registers and flags in reach of each instruction -/

/-- The register that `Writeback` writes: A in the accumulator form, none in a memory form. -/
def writebackRegs : Operand → List Reg
  | .imp => [.a]
  | .imm _ | .zp0 _ | .zpx _ | .zpy _ | .rel _ | .abs _ | .abx _ | .aby _ | .ind _ | .izx _ | .izy _ => []

/-- The registers an instruction can write (R10, R11). -/
def writtenRegs : Instr → List Reg
  | .lda _ | .adc _ | .sbc _ | .and _ | .ora _ | .eor _ | .txa | .tya => [.a]
  | .inc o | .dec o | .asl o | .lsr o | .rol o | .ror o => writebackRegs o
  | .ldx _ | .inx | .dex | .tax | .tsx => [.x]
  | .ldy _ | .iny | .dey | .tay => [.y]
  | .pha | .php | .plp | .jsr _ | .rts | .rti | .brk | .txs => [.sp]
  | .pla => [.sp, .a]
  | .sta _ | .stx _ | .sty _ | .bit _ | .cmp _ | .cpx _ | .cpy _ | .jmp _ => []
  | .bcc _ | .bcs _ | .beq _ | .bmi _ | .bne _ | .bpl _ | .bvc _ | .bvs _ => []
  | .clc | .cld | .cli | .clv | .sec | .sed | .sei | .nop | .xxx _ => []

/-- The flags an instruction can write (R15). -/
def writtenFlags : Instr → List Flag
  | .lda _ | .ldx _ | .ldy _ | .inc _ | .dec _ | .inx | .iny | .dex | .dey => [.z, .n]
  | .and _ | .ora _ | .eor _ | .pla | .tax | .tay | .tsx | .txa | .tya => [.z, .n]
  | .adc _ | .sbc _ => [.c, .v, .z, .n]
  | .asl _ | .lsr _ | .rol _ | .ror _ | .cmp _ | .cpx _ | .cpy _ => [.c, .z, .n]
  | .bit _ => [.z, .n, .v]
  | .clc | .sec => [.c]
  | .cli | .sei | .brk => [.i]
  | .cld | .sed => [.d]
  | .clv => [.v]
  | .plp | .rti => [.c, .z, .i, .d, .b, .u, .v, .n]
  | .sta _ | .stx _ | .sty _ | .jmp _ | .jsr _ | .rts | .pha | .php | .txs | .nop | .xxx _ => []
  | .bcc _ | .bcs _ | .beq _ | .bmi _ | .bne _ | .bpl _ | .bvc _ | .bvs _ => []

/-! ## Writing only some registers and flags -/

/-- From `s` to `t` at most the registers `rs` and the flags `fs` changed, and RAM stayed an array of 2048 bytes. Unlike
`Frame` it allows an event to be reported, so that it speaks of every instruction. -/
structure Writes (rs : List Reg) (fs : List Flag) (s t : State) : Prop where
  regs : ∀ r, r ∉ rs → t.reg r = s.reg r
  flags : ∀ f, f ∉ fs → t.flag f = s.flag f
  ram : Memory.fits s.ram 2048 → Memory.fits t.ram 2048

section
variable {rs rs' : List Reg} {fs fs' : List Flag} {s t u v : State}

theorem Frame.writes (h : Frame rs fs s t) (hram : Memory.fits s.ram 2048 → Memory.fits t.ram 2048) :
    Writes rs fs s t :=
  ⟨h.regs, h.flags, hram⟩

theorem Writes.trans (h : Writes rs fs s t) (k : Writes rs' fs' t u) : Writes (rs ++ rs') (fs ++ fs') s u where
  regs r hr := by
    rw [List.mem_append, not_or] at hr
    exact (k.regs r hr.2).trans (h.regs r hr.1)
  flags f hf := by
    rw [List.mem_append, not_or] at hf
    exact (k.flags f hf.2).trans (h.flags f hf.1)
  ram := k.ram ∘ h.ram

theorem Writes.mono (h : Writes rs fs s t) (hr : rs ⊆ rs') (hf : fs ⊆ fs') : Writes rs' fs' s t :=
  ⟨fun r k => h.regs r fun m => k (hr m), fun f k => h.flags f fun m => k (hf m), h.ram⟩

/-- What the act of an instruction writes is what the instruction around it writes. -/
theorem writes_around (i : Instr) (a b : Bool) (e : Byte) (hbefore : Writes [] [] s u) (hact : Writes rs fs u v) :
    Writes rs fs s (charge i a b e v) :=
  ((hbefore.trans hact).trans ((frame_charge v i a b e).writes id)).mono (by simp) (by simp)

end

section
variable (s : State)

theorem writes_addrMode (o : Operand) : Writes [] [] s (addrMode o s).2 :=
  (frame_addrMode s o).writes (by simp)

theorem writes_operandsRead (o : Operand) : Writes [] [] s (operandsRead o s) :=
  (frame_operandsRead o s).writes (by simp)

theorem writes_memWrite (a : Word) (v : Byte) : Writes [] [] s (memWrite a v s) :=
  (frame_memWrite s a v).writes fun h => by rw [memWrite_eq]; exact fits_ramAfter a v h

theorem writes_writeback (o : Operand) (r : Byte) : Writes (writebackRegs o) [] s (writeback o r s) := by
  cases o with
  | imp => exact (frame_setA s r).writes id
  | _ => exact writes_memWrite s _ r

theorem writes_push (v : Byte) : Writes [.sp] [] s (push v s) :=
  (frame_push s v).writes fun h => by rw [push_eq]; exact fits_pushed _ v h

theorem writes_pull : Writes [.sp] [] s (pull s).2 :=
  (frame_pull s).writes (by simp)

theorem writes_pushWord (w : Word) : Writes [.sp] [] s (pushWord w s) :=
  (frame_pushWord s w).writes ((writes_push _ _).ram ∘ (writes_push s _).ram)

theorem writes_pullWord : Writes [.sp] [] s (pullWord s).2 :=
  (frame_pullWord s).writes (by simp)

theorem writes_returnFromInterrupt :
    Writes [.sp] [.c, .z, .i, .d, .b, .u, .v, .n] s (returnFromInterrupt s) :=
  (frame_returnFromInterrupt s).writes fun h => by rw [returnFromInterrupt_eq]; exact h

theorem writes_takeInterrupt (resume : Word) (status : Byte) (setsI : Bool) (vector : Word)
    (hv : 0x4000 ≤ vector.toNat) (hv' : 0x4000 ≤ (vector + 1).toNat) :
    Writes [.sp] [.i] s (takeInterrupt resume status setsI vector s) := by
  refine (frame_takeInterrupt s resume status setsI vector hv hv').writes fun h => ?_
  have hpushed := (writes_push _ status).ram ((writes_pushWord s resume).ram h)
  rw [takeInterrupt_eq s resume status setsI vector hv hv']
  cases setsI <;> exact hpushed

end

/-! ## The shapes of instructions -/

/-- The result is a next state, with at most the registers `rs` and the flags `fs` written. -/
def CompletesWriting (rs : List Reg) (fs : List Flag) (s : State) (r : Result) : Prop :=
  ∃ t, r = .next t ∧ Writes rs fs s t

section
variable {i : Instr} {o : Operand} {s : State} {rs : List Reg} {fs : List Flag}

theorem readOp_writes {b : Bool} {act : Byte → State → State} (hact : ∀ m u, Writes rs fs u (act m u)) :
    CompletesWriting rs fs s (readOp i o b act s) :=
  ⟨_, rfl, writes_around _ _ _ _ (writes_operandsRead s o) (hact _ _)⟩

theorem storeOp_writes {v : Byte} : CompletesWriting [] [] s (storeOp i o v s) :=
  ⟨_, rfl, writes_around _ _ _ _ (writes_addrMode s o) (writes_memWrite _ _ v)⟩

theorem modifyOp_writes {act : Byte → State → Byte × State} (hact : ∀ m u, Writes [] fs u (act m u).2) :
    CompletesWriting (writebackRegs o) fs s (modifyOp i o act s) :=
  ⟨_, rfl, writes_around _ _ _ _ (writes_operandsRead s o)
    (((hact _ _).trans (writes_writeback _ o _)).mono (by simp) (by simp))⟩

theorem addressOp_writes {act : Word → State → State} (hact : ∀ w u, Writes rs fs u (act w u)) :
    CompletesWriting rs fs s (addressOp i o act s) :=
  ⟨_, rfl, writes_around _ _ _ _ (writes_addrMode s o) (hact _ _)⟩

theorem impliedOp_writes {act : State → State} (hact : ∀ u, Writes rs fs u (act u)) :
    CompletesWriting rs fs s (impliedOp i act s) :=
  ⟨_, rfl, writes_around _ _ _ _ (writes_addrMode s .imp) (hact _)⟩

theorem branchOp_writes {d : Byte} {cond : State → Bool} : CompletesWriting [] [] s (branchOp i d cond s) := by
  have hmode := writes_addrMode s (.rel d)
  unfold branchOp
  dsimp only
  split
  case isTrue =>
    exact ⟨_, rfl, writes_around _ _ _ _ hmode (((frame_setAddrAbs _ _).trans (frame_setPc _ _)).writes id)⟩
  case isFalse => exact ⟨_, rfl, writes_around _ _ _ _ hmode ((Frame.refl _).writes id)⟩

end

theorem report_writes (s : State) (e : Event) : Writes [] [] s (s.report e) :=
  ⟨fun r _ => by cases r <;> rfl, fun _ _ => rfl, id⟩

/-- Every instruction writes at most the registers and flags listed for it: each is one of the shapes above around an
act with a known frame. -/
theorem exec_writes (i : Instr) (s : State) : CompletesWriting (writtenRegs i) (writtenFlags i) s (exec i s) := by
  unfold exec
  cases i with
  | lda o | and o | ora o | eor o =>
    exact readOp_writes fun _ u => ((frame_setA u _).trans (frame_setZN _ _)).writes id
  | ldx o => exact readOp_writes fun _ u => ((frame_setX u _).trans (frame_setZN _ _)).writes id
  | ldy o => exact readOp_writes fun _ u => ((frame_setY u _).trans (frame_setZN _ _)).writes id
  | adc o | sbc o => exact readOp_writes fun _ u => (frame_addToA u _).writes id
  | cmp o | cpx o | cpy o => exact readOp_writes fun _ u => (frame_compareWith u _ _).writes id
  | bit o => exact readOp_writes fun _ u => (frame_bitTest u _).writes id
  | sta o | stx o | sty o => exact storeOp_writes
  | inc o | dec o => exact modifyOp_writes fun _ u => (frame_setZN u _).writes id
  | asl o | lsr o | rol o | ror o => exact modifyOp_writes fun _ u => (frame_shifted u _ _).writes id
  | bcc d | bcs d | beq d | bmi d | bne d | bpl d | bvc d | bvs d => exact branchOp_writes
  | jmp o => exact addressOp_writes fun _ u => (frame_setPc u _).writes id
  | jsr w => exact addressOp_writes fun _ u => (writes_pushWord u _).trans ((frame_setPc _ _).writes id)
  | inx | dex | tax | tsx => exact impliedOp_writes fun u => ((frame_setX u _).trans (frame_setZN _ _)).writes id
  | iny | dey | tay => exact impliedOp_writes fun u => ((frame_setY u _).trans (frame_setZN _ _)).writes id
  | txa | tya => exact impliedOp_writes fun u => ((frame_setA u _).trans (frame_setZN _ _)).writes id
  | txs => exact impliedOp_writes fun u => (frame_setSp u _).writes id
  | clc | cld | cli | clv | sec | sed | sei => exact impliedOp_writes fun u => (frame_setFlag u _ _).writes id
  | pha | php => exact impliedOp_writes fun u => writes_push u _
  | pla =>
    exact impliedOp_writes fun u => (writes_pull u).trans (((frame_setA _ _).trans (frame_setZN _ _)).writes id)
  | plp => exact impliedOp_writes fun u => (writes_pull u).trans ((frame_setP _ _).writes id)
  | rts => exact impliedOp_writes fun u => (writes_pullWord u).trans ((frame_setPc _ _).writes id)
  | rti => exact impliedOp_writes writes_returnFromInterrupt
  | brk =>
    exact impliedOp_writes fun u => writes_takeInterrupt u _ _ _ irqVector (by decide) (by decide)
  | nop => exact impliedOp_writes fun u => (Frame.refl u).writes id
  | xxx op => exact impliedOp_writes fun u => report_writes u _

/-- A result has one next state, so what some next state has, this one has. -/
theorem of_exists_next {r : Result} {Q : State → Prop} {t : State} (hr : r = .next t)
    (hex : ∃ u, r = .next u ∧ Q u) : Q t := by
  obtain ⟨u, hu, hQ⟩ := hex
  cases hr.symm.trans hu
  exact hQ

theorem writes_of_exec {i : Instr} {s t : State} (h : exec i s = .next t) :
    Writes (writtenRegs i) (writtenFlags i) s t :=
  of_exists_next h (exec_writes i s)

theorem mem_writtenRegs_of_ne {i : Instr} {s t : State} {r : Reg} (h : exec i s = .next t)
    (hne : t.reg r ≠ s.reg r) : r ∈ writtenRegs i :=
  by_contra fun hr => hne ((writes_of_exec h).regs r hr)

theorem mem_writtenFlags_of_ne {i : Instr} {s t : State} {f : Flag} (h : exec i s = .next t)
    (hne : t.flag f ≠ s.flag f) : f ∈ writtenFlags i :=
  by_contra fun hf => hne ((writes_of_exec h).flags f hf)

/-! ## Bits B and U -/

/-- P holds U = 1 and B = 0 (R14). -/
def State.StatusHeld (s : State) : Prop := s.flag .u = true ∧ s.flag .b = false

theorem statusHeld_of_restoredP {s : State} {v : Byte} (h : s.p = restoredP v) : s.StatusHeld := by
  simp [State.StatusHeld, State.flag, h, restoredP_bit]

theorem Writes.statusHeld {rs : List Reg} {fs : List Flag} {s t : State} (h : Writes rs fs s t) (hu : .u ∉ fs)
    (hb : .b ∉ fs) (hs : s.StatusHeld) : t.StatusHeld :=
  ⟨(h.flags .u hu).trans hs.1, (h.flags .b hb).trans hs.2⟩

/-- PLP and RTI load P whole, from the byte above SP (R203, R213). -/
theorem exec_plp_p {s t : State} (h : exec .plp s = .next t) :
    t.p = restoredP (s.ram.read (0x100 + (s.sp + 1).toNat)) := by
  cases h
  simp

theorem exec_rti_p {s t : State} (h : exec .rti s = .next t) :
    t.p = restoredP (s.ram.read (0x100 + (s.sp + 1).toNat)) := by
  cases h
  simp [returnFromInterrupt_eq]

/-- No other instruction writes U or B. -/
theorem eq_plp_or_rti_of_mem {i : Instr} (h : .u ∈ writtenFlags i ∨ .b ∈ writtenFlags i) : i = .plp ∨ i = .rti := by
  cases i <;> simp_all [writtenFlags]

/-- Every instruction keeps U = 1 and B = 0: PLP and RTI set them so, and no other writes them. -/
theorem exec_statusHeld {i : Instr} {s t : State} (h : exec i s = .next t) (hs : s.StatusHeld) : t.StatusHeld := by
  by_cases hmem : .u ∈ writtenFlags i ∨ .b ∈ writtenFlags i
  · obtain rfl | rfl := eq_plp_or_rti_of_mem hmem
    · exact statusHeld_of_restoredP (exec_plp_p h)
    · exact statusHeld_of_restoredP (exec_rti_p h)
  · rw [not_or] at hmem
    exact (writes_of_exec h).statusHeld hmem.1 hmem.2 hs

theorem name_of_writes_u_or_b {i : Instr} (h : .u ∈ writtenFlags i ∨ .b ∈ writtenFlags i) : i.name ∈ ["PLP", "RTI"] := by
  obtain rfl | rfl := eq_plp_or_rti_of_mem h <;> simp [Instr.name]

/-! ## The tables of the spec -/

/-- Settles O17: a changed flag is one the instruction writes, and no instruction takes U = 1 and B = 0 away. -/
theorem onlyListedInstructionsWriteEachFlag : Obligations.OnlyListedInstructionsWriteEachFlag := by
  unfold Obligations.OnlyListedInstructionsWriteEachFlag
  intro i s t f hexec hne
  have hmem : f ∈ writtenFlags i := mem_writtenFlags_of_ne hexec hne
  cases f with
  | c | z | i | d | v | n =>
    revert hmem
    cases i <;> simp [writtenFlags, Instr.name]
  | b =>
    refine ⟨name_of_writes_u_or_b (.inr hmem), fun hs => hne ?_⟩
    exact (exec_statusHeld hexec hs).2.trans hs.2.symm
  | u =>
    refine ⟨name_of_writes_u_or_b (.inl hmem), fun hs => hne ?_⟩
    exact (exec_statusHeld hexec hs).1.trans hs.1.symm

theorem mem_writebackRegs {r : Reg} {o : Operand} : r ∈ writebackRegs o ↔ r = .a ∧ o = .imp := by
  cases o <;> simp [writebackRegs]

/-- Settles O18: a changed register is one the instruction writes; INC and DEC, which have no accumulator form, write
none. -/
theorem onlyListedInstructionsWriteEachRegister : Obligations.OnlyListedInstructionsWriteEachRegister := by
  unfold Obligations.OnlyListedInstructionsWriteEachRegister
  intro i s t r hwf hexec hne
  have hmem : r ∈ writtenRegs i := mem_writtenRegs_of_ne hexec hne
  cases r with
  | a =>
    cases i with
    | inc o | dec o =>
      obtain ⟨-, rfl⟩ := mem_writebackRegs.mp hmem
      exact absurd hwf Bool.false_ne_true
    | asl o | lsr o | rol o | ror o =>
      obtain ⟨-, rfl⟩ := mem_writebackRegs.mp hmem
      simp [Instr.operand, Instr.name]
    | _ =>
      revert hmem
      simp [writtenRegs, Instr.name]
  | x | y | sp =>
    revert hmem
    cases i <;> simp [writtenRegs, mem_writebackRegs, Instr.name]

end Sys2Proof.Machine

/-! # The invariant

It holds after reset, and every host operation keeps it. What an instruction does to it comes from what it writes and
from the cycles it is charged. -/

namespace Sys2Proof.Machine

/-! ## Cycles -/

/-- Every entry of the opcode map has 2 to 7 cycles (R84). -/
theorem descriptor_base_bounds (op : Byte) : 2 ≤ (descriptor op).base.toNat ∧ (descriptor op).base.toNat ≤ 7 := by
  revert op
  decide

theorem baseCycles_bounds (i : Instr) : 2 ≤ i.baseCycles.toNat ∧ i.baseCycles.toNat ≤ 7 := by
  unfold Instr.baseCycles
  split
  · exact descriptor_base_bounds _
  · decide

/-- The result is a next state whose remaining cycles are 1 to 8, so that the tick's decrement leaves 0 to 7. -/
def ChargesUpTo8 (r : Result) : Prop := ∃ t, r = .next t ∧ 1 ≤ t.cycles.toNat ∧ t.cycles.toNat ≤ 8

/-- The base count and a page-cross cycle are at most 8. -/
theorem charge_chargesUpTo8 (i : Instr) (a b : Bool) (s : State) : ChargesUpTo8 (.next (charge i a b 0 s)) := by
  obtain ⟨hlow, hhigh⟩ := baseCycles_bounds i
  refine ⟨_, rfl, ?_⟩
  rw [charge_cycles]
  generalize i.baseCycles = n at *
  split <;> bv_omega

theorem branchCycles_le_two (pc target : Word) (s : State) : (branchCycles pc target s).toNat ≤ 2 := by
  unfold branchCycles
  split
  · split <;> decide
  · decide

/-- A branch costs 2 cycles and up to 2 more (R103). -/
theorem branchOp_chargesUpTo8 {i : Instr} (hi : i.baseCycles = 2) (d : Byte) (cond : State → Bool) (s : State) :
    ChargesUpTo8 (branchOp i d cond s) := by
  unfold branchOp
  dsimp only
  split
  case isTrue =>
    refine ⟨_, rfl, ?_⟩
    rw [charge_cycles, hi, Bool.and_false, if_neg Bool.false_ne_true]
    generalize hn : branchCycles _ _ _ = n
    have hle : n.toNat ≤ 2 := hn ▸ branchCycles_le_two _ _ _
    bv_omega
  case isFalse => exact charge_chargesUpTo8 _ _ _ _

/-- Every instruction ends by assigning its cycles; only a branch adds more than a page-cross cycle (R100, R103). -/
theorem exec_chargesUpTo8 (i : Instr) (s : State) : ChargesUpTo8 (exec i s) := by
  unfold exec
  cases i with
  | bcc d | bcs d | beq d | bmi d | bne d | bpl d | bvc d | bvs d => exact branchOp_chargesUpTo8 rfl d _ s
  | _ => exact charge_chargesUpTo8 _ _ _ _

theorem resetCycles_le (p : Params) : p.resetCycles.toNat ≤ cyclesBound p := by simp [cyclesBound]

theorem irqCycles_le (p : Params) : p.irqCycles.toNat ≤ cyclesBound p := by simp [cyclesBound]

theorem nmiCycles_le (p : Params) : p.nmiCycles.toNat ≤ cyclesBound p := by simp [cyclesBound]

theorem seven_le_cyclesBound (p : Params) : 7 ≤ cyclesBound p := by simp [cyclesBound]

/-! ## The phase -/

theorem phaseNext_eq_running {p : Phase} : p.next = .running ↔ p = .running := by cases p <;> simp [Phase.next]

/-! ## One update at a time -/

namespace State.Inv
variable {s t : State}

/-- Where nothing outside the CPU changed, the invariant is about RAM, bits B and U, and `cycles`. -/
theorem of_sameOutside (hs : s.Inv) (hout : SameOutside s t) (hram : Memory.fits t.ram 2048)
    (hstatus : t.phase = .running → t.StatusHeld) (hcycles : t.cycles.toNat ≤ cyclesBound t.params) : t.Inv where
  ram := hram
  nametable0 := hout.nametable0 ▸ hs.nametable0
  nametable1 := hout.nametable1 ▸ hs.nametable1
  palette := hout.palette ▸ hs.palette
  cart := hout.cart ▸ hs.cart
  noCartYet := by rw [hout.phase, hout.cart]; exact hs.noCartYet
  scanlineLow := hout.scanline ▸ hs.scanlineLow
  scanlineHigh := hout.scanline ▸ hs.scanlineHigh
  cycle := hout.cycle ▸ hs.cycle
  unusedSet h := (hstatus h).1
  breakClear h := (hstatus h).2
  cycles := hcycles

theorem statusHeld (hs : s.Inv) (hrunning : s.phase = .running) : s.StatusHeld :=
  ⟨hs.unusedSet hrunning, hs.breakClear hrunning⟩

theorem setDriver (hs : s.Inv) (cs : List HostCall) : (s.setDriver cs).Inv := { hs with }

theorem setReply (hs : s.Inv) (r : Option Byte) : (s.setReply r).Inv := { hs with }

theorem setSysclk (hs : s.Inv) (n : Nat) : (s.setSysclk n).Inv := { hs with }

theorem bumpFree (hs : s.Inv) (n : Nat) : (s.bumpFree n).Inv := { hs with }

theorem setFrameComplete (hs : s.Inv) (b : Bool) : (s.setFrameComplete b).Inv := { hs with }

theorem setRam {m : Memory} (hs : s.Inv) (hm : Memory.fits m 2048) : (s.setRam m).Inv := { hs with ram := hm }

theorem setNametable0 {m : Memory} (hs : s.Inv) (hm : Memory.fits m 1024) : (s.setNametable0 m).Inv :=
  { hs with nametable0 := hm }

theorem setNametable1 {m : Memory} (hs : s.Inv) (hm : Memory.fits m 1024) : (s.setNametable1 m).Inv :=
  { hs with nametable1 := hm }

theorem setPalette {m : Memory} (hs : s.Inv) (hm : Memory.fits m 32) : (s.setPalette m).Inv :=
  { hs with palette := hm }

theorem setPpuPosition {line : Int} {dot : Nat} (hs : s.Inv) (hlow : -1 ≤ line) (hhigh : line ≤ 260) (hdot : dot ≤ 340) :
    (s.setPpuPosition line dot).Inv :=
  { hs with scanlineLow := hlow, scanlineHigh := hhigh, cycle := hdot }

theorem setCycles {n : Byte} (hs : s.Inv) (hn : n.toNat ≤ cyclesBound s.params) : (s.setCycles n).Inv :=
  { hs with cycles := hn }

/-- The phase goes forward, to running only where P is as the reset leaves it. -/
theorem setPhase {ph : Phase} (hs : s.Inv) (hph : ph ≠ .loading) (hheld : ph = .running → s.StatusHeld) :
    (s.setPhase ph).Inv :=
  { hs with
    noCartYet := fun h => absurd h hph
    unusedSet := fun h => (hheld h).1
    breakClear := fun h => (hheld h).2 }

/-- A cartridge comes in only where no load is allowed any more. -/
theorem setCart {c : Cartridge} (hs : s.Inv) (hc : c.Wf) (hph : s.phase ≠ .loading) : (s.setCart (some c)).Inv :=
  { hs with
    cart := fun _ h => Option.some.inj h ▸ hc
    noCartYet := fun h => absurd h hph }

end State.Inv

/-! ## The clock -/

/-- A PPU tick keeps the counters in their ranges (R20, R258). -/
theorem inv_ppuClock {s : State} (hs : s.Inv) : (ppuClock s).Inv := by
  have hcycle := hs.cycle
  have hlow := hs.scanlineLow
  have hhigh := hs.scanlineHigh
  unfold ppuClock
  split
  · split
    · exact (hs.setPpuPosition (by decide) (by decide) (by decide)).setFrameComplete true
    · exact hs.setPpuPosition (by omega) (by omega) (by decide)
  · exact hs.setPpuPosition hlow hhigh (by omega)

/-- The decrement that ends a CPU tick, where cycles remain. -/
theorem inv_countDown {s : State} (hs : s.Inv) (hc : s.cycles ≠ 0) : (countDown s).Inv := by
  have hle := hs.cycles
  exact hs.setCycles (by bv_omega)

theorem inv_fetch {s : State} (hs : s.Inv) : (fetch s).2.Inv :=
  hs.of_sameOutside (fetch_sameOutside s) (by simpa using hs.ram)
    (fun h => by simpa [State.StatusHeld, State.flag] using hs.statusHeld (by simpa using h)) (by simpa using hs.cycles)

/-- An instruction with the decrement after it keeps the invariant (R14, R17). -/
theorem inv_countDown_of_exec {i : Instr} {s t : State} (hs : s.Inv) (h : exec i s = .next t) : (countDown t).Inv := by
  have hout : SameOutside s t := of_exists_next h (exec_completes i s)
  have hheld (hrunning : t.phase = .running) : t.StatusHeld :=
    exec_statusHeld h (hs.statusHeld (hout.phase.symm.trans hrunning))
  obtain ⟨hlow, hhigh⟩ := of_exists_next h (exec_chargesUpTo8 i s)
  have hcycles : (t.cycles - 1).toNat ≤ 7 := by bv_omega
  exact hs.of_sameOutside (hout.trans (countDown_sameOutside t)) ((writes_of_exec h).ram hs.ram) hheld
    (hcycles.trans (seven_le_cyclesBound _))

theorem inv_of_cpuClock {s t : State} (hs : s.Inv) (h : cpuClock s = .next t) : t.Inv := by
  by_cases hc : s.cycles = 0
  · obtain ⟨u, hu, -⟩ := exec_completes (fetch s).1 (fetch s).2
    rw [cpuClock_fetch hc, hu] at h
    cases h
    exact inv_countDown_of_exec (inv_fetch hs) hu
  · rw [cpuClock_countDown hc] at h
    cases h
    exact inv_countDown hs hc

theorem inv_of_busClock {s t : State} (hs : s.Inv) (h : busClock s = .next t) : t.Inv := by
  have hticked := inv_ppuClock (hs.setSysclk (s.sysclk + 1))
  by_cases h3 : (s.sysclk + 1) % 3 = 0
  · rw [busClock_cpu h3] at h
    exact inv_of_cpuClock hticked h
  · rw [busClock_ppuOnly h3] at h
    cases h
    exact hticked

/-! ## Reset and the interrupt inputs -/

/-- Reading the reset vector changes nothing, so `cpu_reset()` writes CPU registers only (R281). -/
theorem cpuReset_fields (s : State) :
    SameOutside s (cpuReset s) ∧ (cpuReset s).ram = s.ram ∧ (cpuReset s).p = 0x24 ∧
      (cpuReset s).cycles = s.params.resetCycles := by
  unfold cpuReset
  rw [readVector_eq (by decide) (by decide)]
  exact ⟨by constructor <;> rfl, rfl, rfl, rfl⟩

/-- `Bus.reset()` leaves memory, the PPU and the cartridge alone, and P holds 0x24 (R32, R33, R280). -/
theorem inv_busReset {s : State} (hs : s.Inv) : (busReset s).Inv := by
  obtain ⟨hout, hram, hp, hcycles⟩ := cpuReset_fields s
  have hheld : (cpuReset s).StatusHeld := statusHeld_of_restoredP (v := 0x24) hp
  have hcpu : (cpuReset s).Inv := by
    refine hs.of_sameOutside hout (hram ▸ hs.ram) (fun _ => hheld) ?_
    rw [hcycles, hout.params]
    exact resetCycles_le s.params
  exact (hcpu.setSysclk 0).setPhase (by decide) fun _ => hheld

/-- Entering a handler pushes inside the stack page and writes no flag but I. -/
theorem inv_takeInterrupt {s : State} (hs : s.Inv) (resume : Word) (status : Byte) (setsI : Bool) {vector : Word}
    (hv : 0x4000 ≤ vector.toNat) (hv' : 0x4000 ≤ (vector + 1).toNat) {n : Byte} (hn : n.toNat ≤ cyclesBound s.params) :
    ((takeInterrupt resume status setsI vector s).setCycles n).Inv := by
  have hwrites := writes_takeInterrupt s resume status setsI vector hv hv'
  have hout := (frame_takeInterrupt s resume status setsI vector hv hv').outside
  exact hs.of_sameOutside (hout.trans (by constructor <;> rfl)) (hwrites.ram hs.ram)
    (fun h => hwrites.statusHeld (by decide) (by decide) (hs.statusHeld (hout.phase.symm.trans h)))
    (hn.trans_eq (congrArg cyclesBound hout.params.symm))

theorem inv_irq {s : State} (hs : s.Inv) : (irq s).Inv := by
  unfold irq
  split
  · exact hs
  · exact inv_takeInterrupt hs _ _ _ (by decide) (by decide) (irqCycles_le s.params)

theorem inv_nmi {s : State} (hs : s.Inv) : (nmi s).Inv :=
  inv_takeInterrupt hs _ _ _ (by decide) (by decide) (nmiCycles_le s.params)

/-! ## The cartridge and the PPU-side port -/

theorem prgBanksOf_eq_some {n : Nat} {banks : PrgBanks} (h : prgBanksOf n = some banks) : banks.count = n := by
  unfold prgBanksOf at h
  split at h <;> cases h <;> rfl

/-- `Cartridge::load` makes a well-formed cartridge (R54). -/
theorem wf_of_loadCartridge {b : Bundle} {c : Cartridge} (h : loadCartridge b = some c) : c.Wf := by
  unfold loadCartridge at h
  split at h
  · cases h
  · rename_i banks hbanks
    split at h
    · rename_i hwf
      obtain ⟨hid, hchr, hprgLen, hchrLen⟩ := hwf
      cases h
      have hprg := Memory.fits_ofBytes b.prg
      have hchrFits := Memory.fits_ofBytes b.chr
      rw [hprgLen, ← prgBanksOf_eq_some hbanks] at hprg
      rw [hchrLen, hchr] at hchrFits
      exact ⟨hprg, hchrFits, hid, hchr, rfl⟩
    · cases h

/-- The index of a byte of the PPU's storage lies in its array (R20). -/
def PpuByte.InBounds : PpuByte → Prop
  | .nametable0 k | .nametable1 k => k < 1024
  | .palette k => k < 32

theorem paletteIndex_lt (a : Word) : paletteIndex a < 32 := by
  have h : (a &&& 0x001F).toNat ≤ 31 := by
    rw [BitVec.toNat_and]
    exact Nat.and_le_right
  unfold paletteIndex
  dsimp only
  split <;> omega

theorem ppuByte_inBounds {m : Mirror} {a : Word} {k : PpuByte} (h : ppuByte m a = some k) : k.InBounds := by
  unfold ppuByte at h
  dsimp only at h
  split at h
  · cases h
  · split at h
    · cases h
      split <;> exact Nat.mod_lt _ (by decide)
    · cases h
      exact paletteIndex_lt a

theorem inv_ppuWrite {s : State} (hs : s.Inv) {c : Cartridge} (hc : c.Wf) (addr : Word) (v : Byte) :
    (ppuWrite c addr v s).Inv := by
  rw [ppuWrite_eq s hc.mapperId]
  cases hk : ppuByte c.mirror addr with
  | none => exact hs
  | some k =>
    have hin := ppuByte_inBounds hk
    cases k with
    | nametable0 k => exact hs.setNametable0 (Memory.fits_write v hs.nametable0 hin)
    | nametable1 k => exact hs.setNametable1 (Memory.fits_write v hs.nametable1 hin)
    | palette k => exact hs.setPalette (Memory.fits_write v hs.palette hin)

/-! ## One call of the host -/

theorem inv_of_afterReset {s t : State} {r : Result} (hr : r = .next t → t.Inv) (h : afterReset s r = .next t) :
    t.Inv := by
  unfold afterReset at h
  split at h
  · exact hr h
  · cases h

theorem inv_of_served {s t : State} (hs : s.Inv) (h : served s = .next t) : t.Inv := by
  cases h
  exact hs.setPhase (phaseNext_ne_loading _) fun hnext => hs.statusHeld (phaseNext_eq_running.mp hnext)

theorem inv_of_load {s t : State} {b : Bundle} (hs : s.Inv) (h : hostCall (.load b) s = .next t) : t.Inv := by
  simp only [hostCall] at h
  split at h
  case isTrue hloading =>
    split at h
    · cases h
    · rename_i c hc
      cases h
      have hnext : (s.setCart (some c)).phase.next = .built := congrArg Phase.next hloading
      rw [hnext]
      have hbuilt : (s.setPhase .built).Inv := hs.setPhase (by decide) (by simp)
      exact hbuilt.setCart (wf_of_loadCartridge hc) (by simp)
  case isFalse => cases h

theorem inv_of_hostCall {call : HostCall} {s t : State} (hs : s.Inv) (h : hostCall call s = .next t) : t.Inv := by
  cases call with
  | clock => exact inv_of_afterReset (inv_of_busClock hs) h
  | reset =>
    cases h
    exact inv_busReset hs
  | busRead addr readOnly =>
    refine inv_of_served (State.Inv.setReply ?_ _) h
    rw [busRead_eq]
    exact hs.bumpFree _
  | busWrite addr data =>
    refine inv_of_served ?_ h
    rw [busWrite_eq]
    exact hs.setRam (fits_ramAfter addr data hs.ram)
  | irq => exact inv_of_afterReset (fun hr => by cases hr; exact inv_irq hs) h
  | nmi => exact inv_of_afterReset (fun hr => by cases hr; exact inv_nmi hs) h
  | clearFrameComplete => exact inv_of_served (hs.setFrameComplete false) h
  | ppuRead addr =>
    cases hcart : s.cart with
    | none => simp [hostCall, hcart] at h
    | some c =>
      simp only [hostCall, hcart] at h
      exact inv_of_served (hs.setReply _) h
  | ppuWrite addr data =>
    cases hcart : s.cart with
    | none => simp [hostCall, hcart] at h
    | some c =>
      simp only [hostCall, hcart] at h
      exact inv_of_served (inv_ppuWrite hs (hs.cart c hcart) addr data) h
  | load bundle => exact inv_of_load hs h

/-- Settles O14: the arrays are empty, and the counters and P hold their reset values. -/
theorem resetStateSatisfiesInvariant : Obligations.ResetStateSatisfiesInvariant where
  ram := Memory.fits_nil _
  nametable0 := Memory.fits_nil _
  nametable1 := Memory.fits_nil _
  palette := Memory.fits_nil _
  cart := fun _ h => nomatch h
  noCartYet := fun _ => rfl
  scanlineLow := by decide
  scanlineHigh := by decide
  cycle := by decide
  unusedSet := fun _ => rfl
  breakClear := fun _ => rfl
  cycles := seven_le_cyclesBound _

/-- Settles O15: a step is one host call, and every host call keeps the invariant. -/
theorem everyStepKeepsTheInvariant : Obligations.EveryStepKeepsTheInvariant := by
  unfold Obligations.EveryStepKeepsTheInvariant
  intro s t hs h
  unfold step at h
  split at h
  · exact inv_of_hostCall hs h
  · exact inv_of_hostCall (hs.setDriver _) h

end Sys2Proof.Machine

/-! # The transient fields and the event sink

What the fetch, the addressing mode and an illegal opcode leave in them; the act of an instruction leaves them alone. -/

namespace Sys2Proof.Machine

/-! ## What acts leave alone, and what addressing modes write -/

/-- From `s` to `t` no transient field but `cycles` was written (R16), and no event was reported. -/
structure SameTransients (s t : State) : Prop where
  fetched : t.fetched = s.fetched
  addrAbs : t.addrAbs = s.addrAbs
  addrRel : t.addrRel = s.addrRel
  opcode : t.opcode = s.opcode
  events : t.events = s.events

/-- From `s` to `t` the transient fields were written as the mode of operand `o` has it (R105, R110), and the events `es`
were reported. -/
structure Addressed (o : Operand) (es : List Event) (s t : State) : Prop where
  opcode : t.opcode = s.opcode
  addrRel : t.addrRel = (addrMode o s).2.addrRel
  implied : o = .imp → t.addrAbs = s.addrAbs ∧ t.fetched = s.a
  events : t.events = s.events ++ es

section
variable {o : Operand} {es : List Event} {s t u : State}

theorem SameTransients.trans (h : SameTransients s t) (k : SameTransients t u) : SameTransients s u :=
  ⟨k.fetched.trans h.fetched, k.addrAbs.trans h.addrAbs, k.addrRel.trans h.addrRel, k.opcode.trans h.opcode,
    k.events.trans h.events⟩

theorem Addressed.trans (h : Addressed o es s t) (k : SameTransients t u) : Addressed o es s u where
  opcode := k.opcode.trans h.opcode
  addrRel := k.addrRel.trans h.addrRel
  implied ho := ⟨k.addrAbs.trans (h.implied ho).1, k.fetched.trans (h.implied ho).2⟩
  events := k.events.trans h.events

end

section
variable (s : State)

theorem addressed_addrMode (o : Operand) : Addressed o [] s (addrMode o s).2 :=
  ⟨by simp, rfl, fun ho => by subst ho; exact ⟨rfl, rfl⟩, by simp⟩

theorem addressed_operandsRead (o : Operand) : Addressed o [] s (operandsRead o s) :=
  ⟨by simp, by simp, fun ho => by subst ho; exact ⟨rfl, rfl⟩, by simp⟩

/-- Only relative mode writes `addr_rel` (R110). -/
theorem addrMode_addrRel_of_ne {o : Operand} (ho : o.mode ≠ .rel) : (addrMode o s).2.addrRel = s.addrRel := by
  cases o with
  | rel d => exact absurd rfl ho
  | _ => simp [addrMode, indexed, zeroPagePointer, memReadPair]

theorem sameTransients_charge (i : Instr) (a b : Bool) (e : Byte) : SameTransients s (charge i a b e s) := by
  constructor <;> rfl

theorem sameTransients_writeback (o : Operand) (r : Byte) : SameTransients s (writeback o r s) := by
  constructor <;> simp

theorem sameTransients_memWrite (a : Word) (v : Byte) : SameTransients s (memWrite a v s) := by
  constructor <;> simp

theorem sameTransients_push (v : Byte) : SameTransients s (push v s) := by constructor <;> simp

theorem sameTransients_pull : SameTransients s (pull s).2 := by constructor <;> simp

theorem sameTransients_pushWord (w : Word) : SameTransients s (pushWord w s) := by constructor <;> simp

theorem sameTransients_pullWord : SameTransients s (pullWord s).2 := by constructor <;> simp

theorem sameTransients_returnFromInterrupt : SameTransients s (returnFromInterrupt s) := by
  rw [returnFromInterrupt_eq]
  constructor <;> rfl

theorem sameTransients_takeInterrupt (resume : Word) (status : Byte) (setsI : Bool) (vector : Word)
    (hv : 0x4000 ≤ vector.toNat) (hv' : 0x4000 ≤ (vector + 1).toNat) :
    SameTransients s (takeInterrupt resume status setsI vector s) := by
  rw [takeInterrupt_eq s resume status setsI vector hv hv']
  refine ((sameTransients_pushWord s resume).trans (sameTransients_push _ status)).trans ?_
  cases setsI <;> constructor <;> rfl

end

/-! ## The shapes of instructions -/

/-- The result is a next state, with the transient fields as the mode of `o` writes them, and the events `es` reported. -/
def CompletesAddressed (o : Operand) (es : List Event) (s : State) (r : Result) : Prop :=
  ∃ t, r = .next t ∧ Addressed o es s t

section
variable {i : Instr} {o : Operand} {s : State}

theorem readOp_addressed {b : Bool} {act : Byte → State → State} (hact : ∀ m u, SameTransients u (act m u)) :
    CompletesAddressed o [] s (readOp i o b act s) :=
  ⟨_, rfl, ((addressed_operandsRead s o).trans (hact _ _)).trans (sameTransients_charge _ _ _ _ _)⟩

theorem storeOp_addressed {v : Byte} : CompletesAddressed o [] s (storeOp i o v s) :=
  ⟨_, rfl, ((addressed_addrMode s o).trans (sameTransients_memWrite _ _ v)).trans (sameTransients_charge _ _ _ _ _)⟩

theorem modifyOp_addressed {act : Byte → State → Byte × State} (hact : ∀ m u, SameTransients u (act m u).2) :
    CompletesAddressed o [] s (modifyOp i o act s) :=
  ⟨_, rfl, (((addressed_operandsRead s o).trans (hact _ _)).trans (sameTransients_writeback _ o _)).trans
    (sameTransients_charge _ _ _ _ _)⟩

theorem addressOp_addressed {act : Word → State → State} (hact : ∀ w u, SameTransients u (act w u)) :
    CompletesAddressed o [] s (addressOp i o act s) :=
  ⟨_, rfl, ((addressed_addrMode s o).trans (hact _ _)).trans (sameTransients_charge _ _ _ _ _)⟩

theorem impliedOp_addressed {act : State → State} (hact : ∀ u, SameTransients u (act u)) :
    CompletesAddressed .imp [] s (impliedOp i act s) :=
  ⟨_, rfl, ((addressed_addrMode s .imp).trans (hact _)).trans (sameTransients_charge _ _ _ _ _)⟩

/-- A taken branch writes `addr_abs`, which relative mode allows. -/
theorem branchOp_addressed {d : Byte} {cond : State → Bool} :
    CompletesAddressed (.rel d) [] s (branchOp i d cond s) := by
  unfold branchOp
  dsimp only
  split <;> exact ⟨_, rfl, rfl, rfl, nofun, (List.append_nil _).symm⟩

end

/-- The events an instruction reports: an illegal opcode's own, with the address it was fetched from (R241). -/
def reported (s : State) : Instr → List Event
  | .xxx op => [.illegalOpcode op (s.pc - 1)]
  | _ => []

theorem reported_cases (i : Instr) (s : State) :
    reported s i = [] ∨ ∃ op, i = .xxx op ∧ reported s i = [.illegalOpcode op (s.pc - 1)] := by
  cases i with
  | xxx op => exact .inr ⟨op, rfl, rfl⟩
  | _ => exact .inl rfl

/-- Every instruction leaves the transient fields to its addressing mode, and only an illegal opcode reports: each is one
of the shapes above around an act on registers, flags and the stack. -/
theorem exec_addressed (i : Instr) (s : State) : CompletesAddressed i.operand (reported s i) s (exec i s) := by
  unfold exec
  cases i with
  | lda o | ldx o | ldy o | adc o | sbc o | and o | ora o | eor o | bit o | cmp o | cpx o | cpy o =>
    exact readOp_addressed fun _ _ => ⟨rfl, rfl, rfl, rfl, rfl⟩
  | sta o | stx o | sty o => exact storeOp_addressed
  | inc o | dec o | asl o | lsr o | rol o | ror o => exact modifyOp_addressed fun _ _ => ⟨rfl, rfl, rfl, rfl, rfl⟩
  | bcc d | bcs d | beq d | bmi d | bne d | bpl d | bvc d | bvs d => exact branchOp_addressed
  | jmp o => exact addressOp_addressed fun _ _ => ⟨rfl, rfl, rfl, rfl, rfl⟩
  | jsr w =>
    exact addressOp_addressed fun _ u => (sameTransients_pushWord u _).trans ⟨rfl, rfl, rfl, rfl, rfl⟩
  | inx | iny | dex | dey | tax | tay | tsx | txa | txs | tya | clc | cld | cli | clv | sec | sed | sei | nop =>
    exact impliedOp_addressed fun _ => ⟨rfl, rfl, rfl, rfl, rfl⟩
  | pha | php => exact impliedOp_addressed fun u => sameTransients_push u _
  | pla | plp => exact impliedOp_addressed fun u => (sameTransients_pull u).trans ⟨rfl, rfl, rfl, rfl, rfl⟩
  | rts => exact impliedOp_addressed fun u => (sameTransients_pullWord u).trans ⟨rfl, rfl, rfl, rfl, rfl⟩
  | rti => exact impliedOp_addressed sameTransients_returnFromInterrupt
  | brk =>
    exact impliedOp_addressed fun u => sameTransients_takeInterrupt u _ _ _ irqVector (by decide) (by decide)
  | xxx op => exact ⟨_, rfl, rfl, rfl, fun _ => ⟨rfl, rfl⟩, rfl⟩

theorem eq_imp_of_mode {o : Operand} (ho : o.mode = .imp) : o = .imp := by
  cases o with
  | imp => rfl
  | _ => cases ho

/-- Settles O16: an instruction completes outside the CPU as `exec_completes` says, and its transient fields are those its
addressing mode wrote. -/
theorem instructionsLeaveTheRestOfTheMachineAlone : Obligations.InstructionsLeaveTheRestOfTheMachineAlone := by
  unfold Obligations.InstructionsLeaveTheRestOfTheMachineAlone
  intro i s
  obtain ⟨t, hexec, hout⟩ := exec_completes i s
  have haddressed : Addressed i.operand (reported s i) s t := of_exists_next hexec (exec_addressed i s)
  refine ⟨t, hexec, hout, haddressed.opcode, ?events, fun d hd => ?rel, fun hne => ?other, fun himp => ?imp⟩
  case events =>
    have hevents := haddressed.events
    obtain hnone | ⟨op, hi, hone⟩ := reported_cases i s
    · exact .inl (by rw [hevents, hnone, List.append_nil])
    · exact .inr ⟨op, hi, by rw [hevents, hone]⟩
  case rel => exact haddressed.addrRel.trans (by rw [hd]; rfl)
  case other => exact haddressed.addrRel.trans (addrMode_addrRel_of_ne s hne)
  case imp => exact haddressed.implied (eq_imp_of_mode himp)

end Sys2Proof.Machine

/-! # The Bus, the cartridge and the PPU-side port

Bus accesses of the RAM window and of program ROM, the bundles that load, and where a PPU-side write goes. -/

namespace Sys2Proof.Machine

/-! ## The RAM window -/

/-- A Bus read of an address with storage gives the stored byte and changes nothing. -/
theorem busRead_of_peek {addr : Word} {s : State} {v : Byte} (h : peek addr s = some v) (ro : Bool) :
    busRead addr ro s = (v, s) := by
  rw [busRead_eq, readByte_of_peek h, readFree_of_peek h, bumpFree_zero]

/-- Settles O19: a read gives the stored byte, and `Stored` covers the mirrors. -/
theorem ramIsMirroredEvery2048Bytes : Obligations.RamIsMirroredEvery2048Bytes := by
  unfold Obligations.RamIsMirroredEvery2048Bytes
  intro s a b v ro hs ha
  have hstored : Stored a v s (busWrite a v s) := stored_memWrite hs.ram.1 a v
  refine ⟨busRead_of_peek (peek_ram ha) ro, hstored, ?_, fun hb hab => ?_⟩
  · rw [busWrite_eq]
    rfl
  · have hpeek : peek b (busWrite a v s) = some v := hstored.2 b ⟨ha, hb, hab.symm⟩
    rw [busRead_of_peek hpeek]

/-! ## Program ROM -/

/-- The program ROM offset of an address from 0x8000 on: one 16 KiB bank twice, or two banks once (R50). -/
def prgOffset : PrgBanks → Word → Nat
  | .one, addr => addr.toNat % 0x4000
  | .two, addr => addr.toNat % 0x8000

theorem cpuMapRead_low (banks : PrgBanks) (chr : Nat) {addr : Word} (h : addr.toNat < 0x8000) :
    cpuMapRead (.m000 banks chr) addr = none :=
  if_neg (by omega)

theorem cpuMapRead_high (banks : PrgBanks) (chr : Nat) {addr : Word} (h : 0x8000 ≤ addr.toNat) :
    cpuMapRead (.m000 banks chr) addr = some (prgOffset banks addr) := by
  refine (if_pos h).trans ?_
  cases banks with
  | one => exact congrArg some (ppuMask_toNat addr)
  | two => exact congrArg some (by simpa [prgOffset] using Nat.and_two_pow_sub_one_eq_mod addr.toNat 15)

/-- With a cartridge of mapper 000, the bytes stored from 0x8000 on are program ROM (R48). -/
theorem peek_prg {s : State} {c : Cartridge} {addr : Word} (hcart : s.cart = some c) (hm : c.mapperId = 0)
    (h : 0x8000 ≤ addr.toNat) : peek addr s = some (c.prg.read (prgOffset c.prgBanks addr)) := by
  simp [peek, cartCpuRead, cartReadOffset, hcart, cartMapper_zero hm, cpuMapRead_high _ _ h]

/-- A Bus write outside the RAM window changes nothing. -/
theorem busWrite_high {addr : Word} (h : 0x2000 ≤ addr.toNat) (v : Byte) (s : State) : busWrite addr v s = s := by
  rw [busWrite_eq, ramAfter, if_neg (by omega)]
  rfl

/-- Settles O23: the four maps by the ends of their ranges, and the Bus through the stored byte. -/
theorem mapper000ReadsProgramRom : Obligations.Mapper000ReadsProgramRom := by
  unfold Obligations.Mapper000ReadsProgramRom
  refine ⟨fun banks chr a => ⟨?cpuRead, rfl, ?ppuRead, rfl⟩, fun s c a ro hcart hm ha => ⟨?busRead, ?busWrite⟩⟩
  case cpuRead =>
    by_cases ha : a.toNat < 0x8000
    · rw [if_pos ha, cpuMapRead_low banks chr ha]
    · rw [if_neg ha, cpuMapRead_high banks chr (by omega)]
      cases banks <;> rfl
  case ppuRead => simp only [ppuMapRead, Nat.lt_succ_iff]
  case busRead =>
    rw [busRead_of_peek (peek_prg hcart hm ha)]
    cases c.prgBanks <;> rfl
  case busWrite => exact fun v => busWrite_high (by omega) v s

/-! ## Loading a cartridge -/

/-- The bundles that decision D17 calls well-formed, of the one mapper known (R54, R55). -/
def Bundle.Wf (b : Bundle) : Prop :=
  b.mapperId = 0 ∧ (b.prgBanks = 1 ∨ b.prgBanks = 2) ∧ b.chrBanks = 1 ∧ b.prg.length = 16384 * b.prgBanks ∧
    b.chr.length = 8192 * b.chrBanks

theorem prgBanksOf_count (banks : PrgBanks) : prgBanksOf banks.count = some banks := by cases banks <;> rfl

theorem PrgBanks.exists_count_iff {n : Nat} : (∃ banks : PrgBanks, banks.count = n) ↔ n = 1 ∨ n = 2 where
  mp := by
    rintro ⟨banks, rfl⟩
    cases banks with
    | one => exact .inl rfl
    | two => exact .inr rfl
  mpr := by
    rintro (rfl | rfl)
    · exact ⟨.one, rfl⟩
    · exact ⟨.two, rfl⟩

/-- The cartridge that holds a bundle. -/
def Bundle.toCartridge (b : Bundle) (banks : PrgBanks) : Cartridge where
  prg := Memory.ofBytes b.prg
  chr := Memory.ofBytes b.chr
  mapperId := b.mapperId
  prgBanks := banks
  chrBanks := b.chrBanks
  mirror := b.mirror
  valid := true

/-- A load succeeds on a well-formed bundle only, and gives the cartridge that holds it. -/
theorem loadCartridge_eq_some {b : Bundle} {c : Cartridge} :
    loadCartridge b = some c ↔ b.Wf ∧ ∃ banks : PrgBanks, banks.count = b.prgBanks ∧ b.toCartridge banks = c where
  mp h := by
    unfold loadCartridge at h
    split at h
    · cases h
    · rename_i banks hbanks
      have hcount : banks.count = b.prgBanks := prgBanksOf_eq_some hbanks
      split at h
      · rename_i hwf
        obtain ⟨hid, hchr, hprgLen, hchrLen⟩ := hwf
        exact ⟨⟨hid, PrgBanks.exists_count_iff.mp ⟨banks, hcount⟩, hchr, hprgLen, hchrLen⟩, banks, hcount,
          Option.some.inj h⟩
      · cases h
  mpr := by
    rintro ⟨⟨hid, -, hchr, hprgLen, hchrLen⟩, banks, hcount, rfl⟩
    have hbanks : prgBanksOf b.prgBanks = some banks := hcount ▸ prgBanksOf_count banks
    simp only [loadCartridge, hbanks]
    exact if_pos ⟨hid, hchr, hprgLen, hchrLen⟩

theorem loadCartridge_ne_none {b : Bundle} : loadCartridge b ≠ none ↔ b.Wf := by
  rw [Option.ne_none_iff_exists']
  constructor
  · rintro ⟨c, hc⟩
    exact (loadCartridge_eq_some.mp hc).1
  · intro hwf
    have ⟨_, hbanks, _⟩ := hwf
    obtain ⟨banks, hcount⟩ := PrgBanks.exists_count_iff.mpr hbanks
    exact ⟨_, loadCartridge_eq_some.mpr ⟨hwf, banks, hcount, rfl⟩⟩

/-- Every byte of a list reads back from the memory that holds the list. -/
theorem Memory.read_ofBytes_of_getElem? {bs : List Byte} {k : Nat} {v : Byte} (h : bs[k]? = some v) :
    Memory.read (Memory.ofBytes bs) k = v := by
  rw [Memory.read_ofBytes, List.getD_eq_getElem?_getD, h, Option.getD_some]

/-- Settles O24: a load gives the cartridge that holds the bundle. -/
theorem loadAcceptsExactlyWellFormedBundles : Obligations.LoadAcceptsExactlyWellFormedBundles := by
  unfold Obligations.LoadAcceptsExactlyWellFormedBundles
  refine fun b => ⟨loadCartridge_ne_none, fun c hload => ⟨wf_of_loadCartridge hload, ?_⟩⟩
  obtain ⟨-, banks, hcount, rfl⟩ := loadCartridge_eq_some.mp hload
  exact ⟨hcount, rfl, fun _ _ => Memory.read_ofBytes_of_getElem?, fun _ _ => Memory.read_ofBytes_of_getElem?⟩

/-! ## The PPU-side port -/

/-- Only addresses of pattern ROM select no byte of the PPU's storage. -/
theorem ppuByte_eq_none {m : Mirror} {addr : Word} : ppuByte m addr = none ↔ addr.toNat % 0x4000 < 0x2000 := by
  unfold ppuByte
  dsimp only
  split
  case isTrue hlow => exact iff_of_true rfl hlow
  case isFalse hhigh => split <;> exact iff_of_false (Option.some_ne_none _) hhigh

section
variable {s : State} {c : Cartridge} (hm : c.mapperId = 0)
include hm

theorem ppuWrite_of_none {addr : Word} (h : ppuByte c.mirror addr = none) (v : Byte) : ppuWrite c addr v s = s := by
  rw [ppuWrite_eq s hm, h]

theorem ppuRead_of_some {addr : Word} {k : PpuByte} (h : ppuByte c.mirror addr = some k) :
    ppuRead c addr s = ppuStored s k := by
  rw [ppuRead_eq s hm, h]

/-- A PPU-side read sees the state only through the byte its address selects. -/
theorem ppuRead_congr {addr : Word} {t : State}
    (h : ∀ k, ppuByte c.mirror addr = some k → ppuStored t k = ppuStored s k) : ppuRead c addr t = ppuRead c addr s := by
  rw [ppuRead_eq t hm, ppuRead_eq s hm]
  cases hk : ppuByte c.mirror addr with
  | none => rfl
  | some k => exact h k hk

/-- A PPU-side write leaves every byte that its address does not select. -/
theorem ppuStored_ppuWrite_of_ne {addr : Word} {j : PpuByte} (h : ppuByte c.mirror addr ≠ some j) (v : Byte) :
    ppuStored (ppuWrite c addr v s) j = ppuStored s j := by
  rw [ppuWrite_eq s hm]
  cases hk : ppuByte c.mirror addr with
  | none => rfl
  | some k =>
    have hjk : j ≠ k := fun e => h (e ▸ hk)
    cases k with
    | nametable0 k =>
      cases j with
      | nametable0 j => exact Memory.read_write_other _ k j v fun e => hjk (congrArg _ e)
      | _ => rfl
    | nametable1 k =>
      cases j with
      | nametable1 j => exact Memory.read_write_other _ k j v fun e => hjk (congrArg _ e)
      | _ => rfl
    | palette k =>
      cases j with
      | palette j => exact Memory.read_write_other _ k j v fun e => hjk (congrArg _ e)
      | _ => rfl

/-- A PPU-side write is held by the byte that its address selects. -/
theorem ppuStored_ppuWrite (hs : s.Inv) {addr : Word} {k : PpuByte} (h : ppuByte c.mirror addr = some k) (v : Byte) :
    ppuStored (ppuWrite c addr v s) k = v := by
  rw [ppuWrite_eq s hm, h]
  cases k with
  | nametable0 k => exact Memory.read_write_same _ k v hs.nametable0.1
  | nametable1 k => exact Memory.read_write_same _ k v hs.nametable1.1
  | palette k => exact Memory.read_write_same _ k v hs.palette.1

/-- A PPU-side write reads back at every address that selects the same byte. -/
theorem ppuRead_ppuWrite (hs : s.Inv) {addr b : Word} (h : ppuByte c.mirror addr ≠ none)
    (hb : ppuByte c.mirror b = ppuByte c.mirror addr) (v : Byte) : ppuRead c b (ppuWrite c addr v s) = v := by
  obtain ⟨k, hk⟩ := Option.ne_none_iff_exists'.mp h
  rw [ppuRead_of_some hm (hb.trans hk), ppuStored_ppuWrite hm hs hk]

end

/-- Settles O26: a write goes to the byte its address selects, and a read sees no other byte. -/
theorem ppuPortWritesAreReadBack : Obligations.PpuPortWritesAreReadBack := by
  unfold Obligations.PpuPortWritesAreReadBack
  intro s c addr v hs hm
  refine ⟨fun hlow => ?rom, fun hhigh => ?same, fun b hne hb => ?mirrors, fun b hb => ?other, fun k hk => ?stored, ?frame⟩
  case rom => exact ppuWrite_of_none hm (ppuByte_eq_none.mpr hlow) v
  case same => exact ppuRead_ppuWrite hm hs (mt ppuByte_eq_none.mp hhigh.not_gt) rfl v
  case mirrors => exact ppuRead_ppuWrite hm hs hne hb v
  case other => exact ppuRead_congr hm fun k hk => ppuStored_ppuWrite_of_ne hm (fun e => hb (hk.trans e.symm)) v
  case stored => exact ppuStored_ppuWrite_of_ne hm hk v
  case frame =>
    rw [ppuWrite_shape]
    rfl

end Sys2Proof.Machine

/-! # Encoding

The well-formed instructions are those that the opcode map builds, and each of them has the opcode byte and the operand
bytes it was built from. Both round trips, the base cycle counts and the fetch follow from that. -/

namespace Sys2Proof

/-! ## Operand bytes -/

/-- The operand of a mode from its two operand bytes, low byte first; a mode ignores the bytes its format lacks. -/
def Mode.operand : Mode → Byte → Byte → Operand
  | .imp, _, _ => .imp
  | .imm, lo, _ => .imm lo
  | .zp0, lo, _ => .zp0 lo
  | .zpx, lo, _ => .zpx lo
  | .zpy, lo, _ => .zpy lo
  | .rel, lo, _ => .rel lo
  | .abs, lo, hi => .abs (word16 hi lo)
  | .abx, lo, hi => .abx (word16 hi lo)
  | .aby, lo, hi => .aby (word16 hi lo)
  | .ind, lo, hi => .ind (word16 hi lo)
  | .izx, lo, _ => .izx lo
  | .izy, lo, _ => .izy lo

/-- Of two operand bytes, those that a format has (R80). -/
def Format.operandBytes : Format → Byte → Byte → List Byte
  | .f1, _, _ => []
  | .f2, lo, _ => [lo]
  | .f3, lo, hi => [lo, hi]

@[simp] theorem mode_operand (m : Mode) (lo hi : Byte) : (m.operand lo hi).mode = m := by cases m <;> rfl

@[simp] theorem bytes_operand (m : Mode) (lo hi : Byte) : (m.operand lo hi).bytes = m.format.operandBytes lo hi := by
  cases m with
  | abs | abx | aby | ind =>
    exact congrArg₂ (fun a b => [a, b]) (Machine.loByte_word16 hi lo) (Machine.hiByte_word16 hi lo)
  | imp | imm | zp0 | zpx | zpy | rel | izx | izy => rfl

/-- Every operand is its mode's, of some operand bytes. -/
theorem exists_eq_operand (o : Operand) : ∃ m lo hi, o = Mode.operand m lo hi := by
  cases o with
  | imp => exact ⟨.imp, 0, 0, rfl⟩
  | imm b => exact ⟨.imm, b, 0, rfl⟩
  | zp0 b => exact ⟨.zp0, b, 0, rfl⟩
  | zpx b => exact ⟨.zpx, b, 0, rfl⟩
  | zpy b => exact ⟨.zpy, b, 0, rfl⟩
  | rel b => exact ⟨.rel, b, 0, rfl⟩
  | izx b => exact ⟨.izx, b, 0, rfl⟩
  | izy b => exact ⟨.izy, b, 0, rfl⟩
  | abs w => exact ⟨.abs, loByte w, hiByte w, congrArg _ (Machine.word16_hi_lo w).symm⟩
  | abx w => exact ⟨.abx, loByte w, hiByte w, congrArg _ (Machine.word16_hi_lo w).symm⟩
  | aby w => exact ⟨.aby, loByte w, hiByte w, congrArg _ (Machine.word16_hi_lo w).symm⟩
  | ind w => exact ⟨.ind, loByte w, hiByte w, congrArg _ (Machine.word16_hi_lo w).symm⟩

/-! ## What the opcode map builds -/

/-- Two functions of the opcode byte agree when they do along each of the map's sixteen rows. Along a row `rfl` evaluates
both, with the operand bytes left open, where `decide` would need them closed. -/
theorem eq_of_rows {α : Type} {f g : Byte → α}
    (h : ∀ row : Fin 16, (List.range 16).map (fun col => f (BitVec.ofNat 8 (16 * row + col))) =
      (List.range 16).map fun col => g (BitVec.ofNat 8 (16 * row + col))) (op : Byte) : f op = g op := by
  have hlt := op.isLt
  have hcol := List.map_inj_left.mp (h ⟨op.toNat / 16, by omega⟩) (op.toNat % 16)
    (List.mem_range.mpr (Nat.mod_lt _ (by decide)))
  simpa [Nat.div_add_mod] using hcol

/-- The by-mnemonic table gives an instruction of the opcode map the byte under which the map has it. -/
@[simp] theorem opcode_instrOf (op lo hi : Byte) : (instrOf op lo hi).opcode = some op := by
  revert op
  exact eq_of_rows fun row => by fin_cases row <;> rfl

@[simp] theorem operand_instrOf (op lo hi : Byte) : (instrOf op lo hi).operand = (descriptor op).mode.operand lo hi := by
  revert op
  exact eq_of_rows fun row => by fin_cases row <;> rfl

/-- The timing table's count for an instruction of the opcode map is the count of its entry (R84, R295). -/
theorem timingTable_instrOf (op lo hi : Byte) : timingTable (instrOf op lo hi) = some (descriptor op).base.toNat := by
  revert op
  exact eq_of_rows fun row => by fin_cases row <;> rfl

/-- The decoder takes the operand bytes of the opcode byte's format, and builds from them what the map does (R83). -/
theorem decode_operandBytes (op lo hi : Byte) (rest : List Byte) :
    decode (op :: ((descriptor op).mode.format.operandBytes lo hi ++ rest)) = .ok (instrOf op lo hi, rest) := by
  revert op
  exact eq_of_rows fun row => by fin_cases row <;> rfl

/-- Operand bytes that the format lacks do not count: decoding never sees them. -/
theorem instrOf_congr {op lo hi lo' hi' : Byte}
    (h : (descriptor op).mode.format.operandBytes lo hi = (descriptor op).mode.format.operandBytes lo' hi') :
    instrOf op lo hi = instrOf op lo' hi' := by
  have hd := decode_operandBytes op lo hi []
  rw [h, decode_operandBytes, Except.ok.injEq, Prod.mk.injEq] at hd
  exact hd.1.symm

theorem instrOf_illegal (lo hi : Byte) : ∀ op ∈ illegalOpcodes, instrOf op lo hi = .xxx op :=
  List.map_inj_left.mp (rfl : illegalOpcodes.map (instrOf · lo hi) = illegalOpcodes.map Instr.xxx)

/-! ## The well-formed instructions -/

/-- The well-formed operand forms are those that the by-mnemonic table has. -/
theorem wf_eq_isSome_opcode (i : Instr) : i.wf = i.opcode.isSome := by
  cases i with
  | lda o | ldx o | ldy o | sta o | stx o | sty o | adc o | sbc o | inc o | dec o | and o | ora o | eor o | bit o
  | asl o | lsr o | rol o | ror o | cmp o | cpx o | cpy o | jmp o => cases o <;> rfl
  | xxx op => by_cases h : op ∈ illegalOpcodes <;> simp [Instr.wf, Instr.opcode, h]
  | _ => rfl

/-- An instruction with an opcode byte stands under that byte in the opcode map. A mode that its mnemonic lacks has no
opcode byte, against the hypothesis. -/
theorem exists_instrOf_of_opcode {i : Instr} {op : Byte} (h : i.opcode = some op) : ∃ lo hi, i = instrOf op lo hi := by
  cases i with
  | lda o | ldx o | ldy o | sta o | stx o | sty o | adc o | sbc o | inc o | dec o | and o | ora o | eor o | bit o
  | asl o | lsr o | rol o | ror o | cmp o | cpx o | cpy o | jmp o =>
    obtain ⟨m, lo, hi, rfl⟩ := exists_eq_operand o
    cases m <;> cases h <;> exact ⟨lo, hi, rfl⟩
  | bcc d | bcs d | beq d | bmi d | bne d | bpl d | bvc d | bvs d =>
    cases h
    exact ⟨d, 0, rfl⟩
  | jsr w =>
    cases h
    exact ⟨loByte w, hiByte w, congrArg Instr.jsr (Machine.word16_hi_lo w).symm⟩
  | xxx b =>
    obtain ⟨hb, rfl⟩ : b ∈ illegalOpcodes ∧ b = op := by simpa [Instr.opcode] using h
    exact ⟨0, 0, (instrOf_illegal 0 0 b hb).symm⟩
  | _ =>
    cases h
    exact ⟨0, 0, rfl⟩

theorem wf_iff_exists_instrOf {i : Instr} : i.wf = true ↔ ∃ op lo hi, i = instrOf op lo hi := by
  rw [wf_eq_isSome_opcode, Option.isSome_iff_exists]
  constructor
  · rintro ⟨op, h⟩
    exact ⟨op, exists_instrOf_of_opcode h⟩
  · rintro ⟨op, lo, hi, rfl⟩
    exact ⟨op, opcode_instrOf op lo hi⟩

/-! ## Round trips -/

/-- The encoder writes the bytes that the map's instruction was built from. -/
theorem encode_instrOf (op lo hi : Byte) :
    encode (instrOf op lo hi) = op :: (descriptor op).mode.format.operandBytes lo hi := by
  rw [encode, opcode_instrOf, operand_instrOf, bytes_operand]

theorem decode_encode_instrOf (op lo hi : Byte) (rest : List Byte) :
    decode (encode (instrOf op lo hi) ++ rest) = .ok (instrOf op lo hi, rest) := by
  rw [encode_instrOf, List.cons_append, decode_operandBytes]

/-- What decodes has the opcode byte and as many operand bytes as its format takes, and is built from them. -/
theorem decode_eq_ok {bs rest : List Byte} {i : Instr} (h : decode bs = .ok (i, rest)) :
    ∃ op lo hi, i = instrOf op lo hi ∧ bs = op :: ((descriptor op).mode.format.operandBytes lo hi ++ rest) := by
  unfold decode at h
  split at h
  case h_1 => cases h
  case h_2 op tail =>
    split at h
    case h_1 tail hf =>
      cases h
      exact ⟨op, 0, 0, rfl, by rw [hf]; rfl⟩
    case h_2 lo tail hf =>
      cases h
      exact ⟨op, lo, 0, rfl, by rw [hf]; rfl⟩
    case h_3 lo hi tail hf =>
      cases h
      exact ⟨op, lo, hi, rfl, by rw [hf]; rfl⟩
    case h_4 | h_5 | h_6 => cases h

/-- Settles O2: a well-formed instruction is one that the opcode map builds. -/
theorem decodeEncodeRoundTrip : Obligations.DecodeEncodeRoundTrip := by
  unfold Obligations.DecodeEncodeRoundTrip
  intro i rest hwf
  obtain ⟨op, lo, hi, rfl⟩ := wf_iff_exists_instrOf.mp hwf
  exact decode_encode_instrOf op lo hi rest

/-- Settles O3: what decodes is built by the opcode map from the bytes it was read from. -/
theorem encodeDecodeRoundTrip : Obligations.EncodeDecodeRoundTrip := by
  unfold Obligations.EncodeDecodeRoundTrip
  intro bs i rest h
  obtain ⟨op, lo, hi, rfl, rfl⟩ := decode_eq_ok h
  exact ⟨wf_iff_exists_instrOf.mpr ⟨op, lo, hi, rfl⟩, by rw [encode_instrOf, List.cons_append]⟩

/-- The operand bytes of a format are the first of the bytes after the opcode byte. -/
theorem operandBytes_append_drop (fmt : Format) (lo hi : Byte) (rest : List Byte) :
    fmt.operandBytes lo hi ++ (lo :: hi :: rest).drop (fmt.operandBytes lo hi).length = lo :: hi :: rest := by
  cases fmt <;> rfl

/-- Settles O4: the instruction is the one the map builds from the three bytes. -/
theorem firstByteDecidesLength : Obligations.FirstByteDecidesLength := by
  unfold Obligations.FirstByteDecidesLength
  intro op lo hi rest
  refine ⟨instrOf op lo hi, ?decodes, by rw [operand_instrOf, mode_operand]⟩
  case decodes =>
    rw [operand_instrOf, bytes_operand, Nat.add_comm 1, List.drop_succ_cons, ← decode_operandBytes,
      operandBytes_append_drop]

/-- Settles O6: a well-formed instruction is one that the opcode map builds, so the map's sixteen rows are all there is to
compare. -/
theorem baseCyclesMatchTimingTable : Obligations.BaseCyclesMatchTimingTable := by
  unfold Obligations.BaseCyclesMatchTimingTable
  intro i hwf
  obtain ⟨op, lo, hi, rfl⟩ := wf_iff_exists_instrOf.mp hwf
  rw [timingTable_instrOf, Instr.baseCycles, opcode_instrOf]

/-- Settles O1: the decoder computes on closed words. -/
theorem decodeSpecWords : Obligations.DecodeSpecWords :=
  ⟨rfl, rfl, rfl, rfl, rfl, rfl, rfl, rfl, rfl, rfl, rfl, rfl⟩

end Sys2Proof

namespace Sys2Proof.Machine

/-! ## The data byte -/

/-- Free values are drawn in order, and an addressing mode gives none back. -/
theorem freeCount_le_addrMode (o : Operand) (s : State) : s.freeCount ≤ (addrMode o s).2.freeCount := by
  cases o <;> simp [addrMode, indexed, zeroPagePointer_eq, memReadPair]

/-- Settles O31: in a mode with an address the data byte is what a CPU read there gives, after the pointer's own reads. -/
theorem dataByteComesFromTheEffectiveAddress : Obligations.DataByteComesFromTheEffectiveAddress := by
  unfold Obligations.DataByteComesFromTheEffectiveAddress
  intro s o
  refine ⟨?imp, ?imm, fun hi hm v hv => ?stored, fun hi hm hnone => ?free⟩
  case imp =>
    rintro rfl
    rfl
  case imm =>
    rintro v rfl
    rfl
  case stored => rw [dataByte_memory s hi hm, readByte_of_peek ((peek_addrMode _ o s).trans hv)]
  case free =>
    refine ⟨(addrMode o s).2.freeCount, freeCount_le_addrMode o s, ?_⟩
    rw [dataByte_memory s hi hm, readByte, peek_addrMode, hnone, Option.getD_none]

/-! ## The fetch -/

/-- The bytes stored at rising addresses from `a` on. -/
def BytesAt (a : Word) (bs : List Byte) (s : State) : Prop :=
  ∀ k b, bs[k]? = some b → peek (a + BitVec.ofNat 16 k) s = some b

theorem BytesAt.head {a : Word} {b : Byte} {bs : List Byte} {s : State} (h : BytesAt a (b :: bs) s) :
    peek a s = some b := by
  simpa using h 0 b rfl

theorem BytesAt.tail {a : Word} {b : Byte} {bs : List Byte} {s : State} (h : BytesAt a (b :: bs) s) :
    BytesAt (a + 1) bs s := fun k c hk => by
  have hc := h (k + 1) c hk
  rwa [BitVec.ofNat_add, BitVec.add_comm (BitVec.ofNat 16 k), ← BitVec.add_assoc] at hc

/-- With an instruction's bytes at PC the fetch gives the instruction, PC past its bytes and the first one in `opcode`
(R83, R100). -/
theorem fetch_of_bytesAt {s : State} {op lo hi : Byte} {operands : List Byte}
    (hbytes : (descriptor op).mode.format.operandBytes lo hi = operands) (h : BytesAt s.pc (op :: operands) s) :
    fetch s = (instrOf op lo hi, (s.setOpcode op).setPc (s.pc + BitVec.ofNat 16 (1 + operands.length))) := by
  subst hbytes
  have hop := nextByte_of_peek h.head
  cases hf : (descriptor op).mode.format with
  | f1 =>
    rw [instrOf_congr (lo' := 0) (hi' := 0) (by rw [hf]; rfl)]
    simp only [fetch, hop, hf]
    rfl
  | f2 =>
    rw [hf] at h
    have hlo := nextByte_of_peek (s := (s.setPc (s.pc + 1)).setOpcode op) (by simpa using h.tail.head)
    rw [instrOf_congr (lo' := lo) (hi' := 0) (by rw [hf]; rfl)]
    simp only [fetch, hop, hf, hlo]
    exact congrArg (fun pc => (_, (s.setOpcode op).setPc pc)) (BitVec.add_assoc s.pc 1 1)
  | f3 =>
    rw [hf] at h
    have hlo := nextByte_of_peek (s := (s.setPc (s.pc + 1)).setOpcode op) (by simpa using h.tail.head)
    have hhi := nextByte_of_peek (s := ((s.setPc (s.pc + 1)).setOpcode op).setPc (s.pc + 1 + 1))
      (by simpa using h.tail.tail.head)
    simp only [fetch, hop, hf, hlo, State.setOpcode_fields, State.setPc_fields, hhi]
    refine congrArg (fun pc => (_, (s.setOpcode op).setPc pc)) ?_
    rw [BitVec.add_assoc, BitVec.add_assoc]
    rfl

/-- Settles O7: the step is the master tick's CPU tick, which fetches the decoded instruction and runs it. -/
theorem stepRunsTheDecodedInstruction : Obligations.StepRunsTheDecodedInstruction := by
  unfold Obligations.StepRunsTheDecodedInstruction
  intro s i op operands hs hcycles hcpu hdecode hpeek
  obtain ⟨hphase, hdriver⟩ := hs
  obtain ⟨op', lo, hi, rfl, hbytes⟩ := decode_eq_ok hdecode
  rw [List.append_nil] at hbytes
  obtain ⟨rfl, hbytes⟩ := List.cons.inj hbytes
  have hpc : (ppuClock (s.setSysclk (s.sysclk + 1))).pc = s.pc := by simp
  have hmem : ∀ a, peek a (ppuClock (s.setSysclk (s.sysclk + 1))) = peek a s :=
    peek_congr (by simp) (by simp) (by simp)
  have hat : BytesAt (ppuClock _).pc (op :: operands) (ppuClock (s.setSysclk (s.sysclk + 1))) := fun k b hk => by
    rw [hpc, hmem, hpeek k b hk]
  rw [step_clocked hphase hdriver, busClock_cpu hcpu, cpuClock_fetch (by simpa using hcycles),
    fetch_of_bytesAt hbytes.symm hat, hpc]
  rfl

end Sys2Proof.Machine

/-! # Ticks, addresses and data

What a clocked step does between instructions, the addresses that the modes give as numbers, and what the instructions
that load, store, compute, compare and branch do with the data byte. -/

namespace Sys2Proof.Machine

/-! ## Steps between instructions -/

/-- From `s` to `t` the clock counter went up by `ticks`, `cycles` became `left`, the PPU's counters may have moved, and
nothing else changed. -/
def CountedTo (s : State) (ticks : Nat) (left : Byte) (t : State) : Prop :=
  ∃ line dot frame, t = { s with
    sysclk := s.sysclk + ticks, scanline := line, cycle := dot, frameComplete := frame, cycles := left }

section
variable {s t u : State} {m n : Nat} {b c : Byte}

theorem CountedTo.refl (s : State) : CountedTo s 0 s.cycles s := ⟨_, _, _, rfl⟩

theorem CountedTo.trans (h : CountedTo s m b t) (k : CountedTo t n c u) : CountedTo s (m + n) c u := by
  obtain ⟨_, _, _, rfl⟩ := h
  obtain ⟨line, dot, frame, rfl⟩ := k
  exact ⟨line, dot, frame, by simp only [Nat.add_assoc]⟩

theorem CountedTo.sysclk (h : CountedTo s n c t) : t.sysclk = s.sysclk + n := by
  obtain ⟨_, _, _, rfl⟩ := h
  rfl

theorem CountedTo.cycles (h : CountedTo s n c t) : t.cycles = c := by
  obtain ⟨_, _, _, rfl⟩ := h
  rfl

theorem CountedTo.clocked (h : CountedTo s n c t) (hs : s.Clocked) : t.Clocked := by
  obtain ⟨_, _, _, rfl⟩ := h
  exact hs

theorem CountedTo.countDown (h : CountedTo s n c t) : CountedTo s n (c - 1) (countDown t) := by
  obtain ⟨line, dot, frame, rfl⟩ := h
  exact ⟨line, dot, frame, rfl⟩

/-- The same said of `t` itself, as the statements say it. -/
theorem CountedTo.eq (h : CountedTo s n c t) :
    t = { s with sysclk := s.sysclk + n, scanline := t.scanline, cycle := t.cycle, frameComplete := t.frameComplete,
                 cycles := c } := by
  obtain ⟨_, _, _, rfl⟩ := h
  rfl

end

/-- The count and the PPU tick that every master tick makes (R256). -/
theorem countedTo_ppuClock (s : State) : CountedTo s 1 s.cycles (ppuClock (s.setSysclk (s.sysclk + 1))) :=
  ⟨_, _, _, ppuClock_eq _⟩

/-- A master tick that is no CPU tick only counts (R256). -/
theorem step_between_cpu_ticks {s : State} (hs : s.Clocked) (h3 : (s.sysclk + 1) % 3 ≠ 0) :
    ∃ t, step s = .next t ∧ CountedTo s 1 s.cycles t := by
  obtain ⟨hphase, hdriver⟩ := hs
  exact ⟨_, (step_clocked hphase hdriver).trans (busClock_ppuOnly h3), countedTo_ppuClock s⟩

/-- A CPU tick with cycles left only counts and takes one cycle off (R100). -/
theorem step_counts_down {s : State} (hs : s.Clocked) (h3 : (s.sysclk + 1) % 3 = 0) (hc : s.cycles ≠ 0) :
    ∃ t, step s = .next t ∧ CountedTo s 1 (s.cycles - 1) t := by
  obtain ⟨hphase, hdriver⟩ := hs
  have hcount := countedTo_ppuClock s
  refine ⟨_, ?_, hcount.countDown⟩
  rw [step_clocked hphase hdriver, busClock_cpu h3, cpuClock_countDown (by rwa [hcount.cycles])]

/-- Settles O8: the two kinds of step between instructions. -/
theorem cpuAdvancesOnEveryThirdTick : Obligations.CpuAdvancesOnEveryThirdTick := by
  unfold Obligations.CpuAdvancesOnEveryThirdTick
  refine fun s hs => ⟨fun h3 => ?between, fun h3 hc => ?cpu⟩
  case between =>
    obtain ⟨t, hstep, hcount⟩ := step_between_cpu_ticks hs h3
    exact ⟨t, hstep, hcount.eq⟩
  case cpu =>
    obtain ⟨t, hstep, hcount⟩ := step_counts_down hs h3 hc
    exact ⟨t, hstep, hcount.eq⟩

theorem exists_step_of_run_succ (M : Host.Core) {s t : M.State} {n : Nat} (h : M.run (n + 1) s = .next t) :
    ∃ u, M.step s = .next u ∧ M.run n u = .next t := by
  rw [Host.Core.run] at h
  split at h
  case h_1 u hstep => exact ⟨u, hstep, h⟩
  case h_2 | h_3 => cases h

theorem RunsTo.trans {s t u : State} {m n : Nat} (h : RunsTo s m t) (k : RunsTo t n u) : RunsTo s (m + n) u := by
  induction m generalizing s with
  | zero =>
    cases h
    rwa [Nat.zero_add]
  | succ m ih =>
    obtain ⟨v, hstep, hrun⟩ := exists_step_of_run_succ Sys2Proof.core h
    rw [Nat.add_right_comm]
    exact runsTo_succ hstep (ih hrun)

/-- Three ticks from a CPU tick boundary end at the next one, with one cycle less. -/
theorem three_steps_count_down {s : State} (hs : s.Clocked) (h3 : s.sysclk % 3 = 0) (hc : s.cycles ≠ 0) :
    ∃ t, RunsTo s 3 t ∧ CountedTo s 3 (s.cycles - 1) t := by
  obtain ⟨t₁, hstep₁, h₁⟩ := step_between_cpu_ticks hs (by omega)
  have hclk₁ := h₁.sysclk
  obtain ⟨t₂, hstep₂, h₂⟩ := step_between_cpu_ticks (h₁.clocked hs) (by omega)
  have hclk₂ := h₂.sysclk
  have hcount₂ := h₁.trans h₂
  rw [h₁.cycles] at hcount₂
  obtain ⟨t₃, hstep₃, h₃⟩ := step_counts_down (hcount₂.clocked hs) (by omega) (by rwa [hcount₂.cycles])
  rw [hcount₂.cycles] at h₃
  exact ⟨t₃, runsTo_succ hstep₁ (runsTo_succ hstep₂ (runsTo_succ hstep₃ (runsTo_zero t₃))), hcount₂.trans h₃⟩

/-- From a CPU tick boundary `n` remaining cycles take `3 * n` ticks and nothing else happens in them. -/
theorem remaining_cycles_count_down {s : State} {n : Nat} (hn : s.cycles.toNat = n) (hs : s.Clocked)
    (h3 : s.sysclk % 3 = 0) : ∃ t, RunsTo s (3 * n) t ∧ CountedTo s (3 * n) 0 t := by
  induction n generalizing s with
  | zero =>
    have hzero : s.cycles = 0 := BitVec.eq_of_toNat_eq hn
    exact ⟨s, runsTo_zero s, hzero ▸ CountedTo.refl s⟩
  | succ n ih =>
    have hne : s.cycles ≠ 0 := fun h => by simp [h] at hn
    obtain ⟨u, hrun, hu⟩ := three_steps_count_down hs h3 hne
    have hclk := hu.sysclk
    have hleft : u.cycles.toNat = n := by
      rw [hu.cycles]
      bv_omega
    obtain ⟨t, hrun', ht⟩ := ih hleft (hu.clocked hs) (by omega)
    rw [Nat.mul_succ, Nat.add_comm]
    exact ⟨t, hrun.trans hrun', hu.trans ht⟩

/-- Settles O11, by induction on the remaining cycles. -/
theorem remainingCyclesOnlyCountDown : Obligations.RemainingCyclesOnlyCountDown := by
  unfold Obligations.RemainingCyclesOnlyCountDown
  intro s hs h3
  obtain ⟨t, hrun, hcount⟩ := remaining_cycles_count_down rfl hs h3
  exact ⟨t, hrun, hcount.eq⟩

/-! ## Effective addresses -/

/-- Settles O27: each address is a sum of the operand and a register, taken modulo its width. -/
theorem effectiveAddressesWithoutPointer : Obligations.EffectiveAddressesWithoutPointer := by
  unfold Obligations.EffectiveAddressesWithoutPointer
  refine fun s z w => ⟨?imm, ?zp0, ?zpx, ?zpy, rfl, ?abx, ?aby⟩
  case imm => exact BitVec.sub_add_cancel s.pc 1
  case zp0 => exact toNat_zext16 z
  case zpx => exact (toNat_zext16 _).trans (BitVec.toNat_add z s.x)
  case zpy => exact (toNat_zext16 _).trans (BitVec.toNat_add z s.y)
  case abx => exact (BitVec.toNat_add w _).trans (by rw [toNat_zext16])
  case aby => exact (BitVec.toNat_add w _).trans (by rw [toNat_zext16])

/-- The start of an address's page. -/
theorem and_FF00 (w : Word) : w &&& 0xFF00 = word16 (hiByte w) 0 := by
  calc w &&& 0xFF00
    _ = word16 (hiByte w) (loByte w) &&& word16 (BitVec.allOnes 8) 0 := by rw [word16_hi_lo]; rfl
    _ = word16 (hiByte w &&& BitVec.allOnes 8) (loByte w &&& 0) := BitVec.and_append
    _ = word16 (hiByte w) 0 := congrArg₂ word16 BitVec.and_allOnes BitVec.and_zero

/-- Where the high byte of an indirect-jump pointer stands, as a number (R114). -/
theorem indirectHighAddr_eq (ptr : Word) :
    indirectHighAddr ptr = if ptr.toNat % 256 = 255 then BitVec.ofNat 16 (ptr.toNat - 255) else ptr + 1 := by
  have hlast : loByte ptr = 0xFF ↔ ptr.toNat % 256 = 255 := by
    rw [← BitVec.toNat_inj, toNat_loByte]
    rfl
  by_cases h : ptr.toNat % 256 = 255
  · have hlt := ptr.isLt
    rw [indirectHighAddr, if_pos (hlast.mpr h), if_pos h, and_FF00]
    apply BitVec.eq_of_toNat_eq
    rw [toNat_word16, toNat_hiByte, BitVec.toNat_ofNat, show (0 : Byte).toNat = 0 from rfl]
    omega
  · rw [indirectHighAddr, if_neg (hlast.not.mpr h), if_neg h]

/-- Settles O28: both pointer bytes have storage, so the address is the word they hold. -/
theorem indirectModeHasThePageBug : Obligations.IndirectModeHasThePageBug := by
  unfold Obligations.IndirectModeHasThePageBug
  intro s ptr l h hl hh
  rw [← indirectHighAddr_eq] at hh
  rw [effAddr, addrMode_ind hl hh]
  exact toNat_word16 h l

theorem effAddr_izx (z : Byte) (s : State) :
    effAddr (.izx z) s = word16 (s.ram.read (z + s.x + 1).toNat) (s.ram.read (z + s.x).toNat) := by
  rw [effAddr, addrMode_izx]
  rfl

theorem effAddr_izy (z : Byte) (s : State) :
    effAddr (.izy z) s = word16 (s.ram.read (z + 1).toNat) (s.ram.read z.toNat) + zext16 s.y := by
  rw [effAddr, addrMode_izy]
  rfl

/-- Settles O29: the pointer bytes are two bytes of RAM, whose indexes wrap as byte sums do. -/
theorem pointerModesWrapInTheZeroPage : Obligations.PointerModesWrapInTheZeroPage := by
  unfold Obligations.PointerModesWrapInTheZeroPage
  refine fun s z => ⟨?izx, ?izy⟩
  case izx => simp [effAddr_izx, toNat_word16, BitVec.toNat_add]
  case izy => simp [effAddr_izy, toNat_word16, BitVec.toNat_add]

/-! ## The page-cross flag -/

/-- Settles O30: only the indexed modes can set the flag, and there it is the carry out of the low byte. -/
theorem pageCrossFlagOnlyForIndexedCarry : Obligations.PageCrossFlagOnlyForIndexedCarry := by
  unfold Obligations.PageCrossFlagOnlyForIndexedCarry
  refine fun s o => ⟨?flag, fun v => ⟨_, rfl, rfl⟩⟩
  cases o with
  | abx w | aby w => rw [crosses, addrMode, indexed_crosses, decide_eq_true_iff]
  | izy z =>
    have hlt := (s.ram.read z.toNat).isLt
    rw [crosses, addrMode_izy, indexed_crosses, decide_eq_true_iff, toNat_word16,
      Nat.mul_add_mod_of_lt hlt]
  | imp | imm | zp0 | zpx | zpy | rel | abs | ind | izx => exact iff_of_false Bool.false_ne_true id

/-! ## Z and N -/

/-- Z and N follow a byte when they hold what `SetZN` computes of it. -/
theorem znOf_of_flags {v : Byte} {t : State} (hz : t.flag .z = decide (v = 0)) (hn : t.flag .n = v.getLsbD 7) :
    ZnOf v t :=
  ⟨by rw [hz, decide_eq_true_iff], by rw [hn, msb_eq, decide_eq_true_iff]⟩

/-! ## Loads, stores and logical operations -/

/-- `set` writes register `r` and leaves every other register, the flags, RAM and PC alone. -/
structure RegWriter (r : Reg) (set : State → Byte → State) : Prop where
  frame : ∀ u v, Frame [r] [] u (set u v)
  reg : ∀ u v, (set u v).reg r = v
  ram : ∀ u v, (set u v).ram = u.ram
  pc : ∀ u v, (set u v).pc = u.pc

theorem regWriter_setA : RegWriter .a State.setA := ⟨frame_setA, fun _ _ => rfl, fun _ _ => rfl, fun _ _ => rfl⟩

theorem regWriter_setX : RegWriter .x State.setX := ⟨frame_setX, fun _ _ => rfl, fun _ _ => rfl, fun _ _ => rfl⟩

theorem regWriter_setY : RegWriter .y State.setY := ⟨frame_setY, fun _ _ => rfl, fun _ _ => rfl, fun _ _ => rfl⟩

/-- An instruction that writes a byte computed from the data byte to a register and sets Z and N from it does nothing
else, and pays for a page cross. -/
theorem readOp_setReg (i : Instr) (o : Operand) (s : State) {r : Reg} {set : State → Byte → State}
    (hset : RegWriter r set) (f : Byte → State → Byte) :
    ∃ t, readOp i o true (fun m u => (set u (f m u)).setZN (f m u)) s = .next t ∧
      t.reg r = f (dataByte o s) (operandsRead o s) ∧ ZnOf (f (dataByte o s) (operandsRead o s)) t ∧
      Frame [r] [.z, .n] s t ∧ SameMemory s t ∧ t.pc = s.pc ∧ t.cycles = i.baseCycles + (if crosses o s then 1 else 0) := by
  obtain ⟨t, hnext, ht, hframe, hmem, hpc, hcycles⟩ := readOp_spec i o true (fun m u => (set u (f m u)).setZN (f m u)) s
    (fun m u => (hset.frame u _).trans (frame_setZN _ _)) (fun m u => by simp [hset.ram]) (fun m u => by simp [hset.pc])
  refine ⟨t, hnext, ?reg, znOf_of_flags (by simp [ht]) (by simp [ht]), hframe, hmem, hpc, by simpa using hcycles⟩
  rw [ht]
  exact (((frame_setZN _ _).trans (frame_charge _ _ _ _ _)).regs r (by simp)).trans (hset.reg _ _)

/-- Settles O32: a load writes the data byte itself. -/
theorem loadsWriteTheirRegister : Obligations.LoadsWriteTheirRegister := by
  unfold Obligations.LoadsWriteTheirRegister
  intro s o i r hi
  simp only [List.mem_cons, Prod.mk.injEq, List.not_mem_nil, or_false] at hi
  obtain ⟨rfl, rfl⟩ | ⟨rfl, rfl⟩ | ⟨rfl, rfl⟩ := hi
  case inl => exact readOp_setReg (.lda o) o s regWriter_setA fun m _ => m
  case inr.inl => exact readOp_setReg (.ldx o) o s regWriter_setX fun m _ => m
  case inr.inr => exact readOp_setReg (.ldy o) o s regWriter_setY fun m _ => m

/-- Settles O33: each store is a `storeOp` of its register, and the invariant makes RAM canonical. -/
theorem storesWriteOneByte : Obligations.StoresWriteOneByte := by
  unfold Obligations.StoresWriteOneByte
  intro s o i v hs hi
  obtain ⟨hwf, -⟩ := hs.ram
  simp only [List.mem_cons, Prod.mk.injEq, List.not_mem_nil, or_false] at hi
  obtain ⟨rfl, rfl⟩ | ⟨rfl, rfl⟩ | ⟨rfl, rfl⟩ := hi <;> exact storeOp_spec _ o _ s hwf

/-- An instruction that combines A with the data byte bit by bit. -/
theorem readOp_bitwise (i : Instr) (o : Operand) (s : State) (op : Byte → Byte → Byte) {f : Bool → Bool → Bool}
    (hbit : ∀ v m k, (op v m).getLsbD k = f (v.getLsbD k) (m.getLsbD k)) :
    ∃ t, readOp i o true (fun m u => (u.setA (op u.a m)).setZN (op u.a m)) s = .next t ∧
      (∀ k, k < 8 → t.a.getLsbD k = f (s.a.getLsbD k) ((dataByte o s).getLsbD k)) ∧ ZnOf t.a t ∧
      Frame [.a] [.z, .n] s t ∧ SameMemory s t ∧ t.pc = s.pc ∧ t.cycles = i.baseCycles + (if crosses o s then 1 else 0) := by
  obtain ⟨t, hnext, (ha : t.a = _), hzn, hrest⟩ := readOp_setReg i o s regWriter_setA fun m u => op u.a m
  rw [← ha] at hzn
  exact ⟨t, hnext, fun k _ => by rw [ha, hbit, (operandsRead_fields o s).1], hzn, hrest⟩

/-- Settles O39: the byte operations work on each bit. -/
theorem logicalOperationsWorkBitByBit : Obligations.LogicalOperationsWorkBitByBit := by
  unfold Obligations.LogicalOperationsWorkBitByBit
  intro s o i f hi
  simp only [List.mem_cons, Prod.mk.injEq, List.not_mem_nil, or_false] at hi
  obtain ⟨rfl, rfl⟩ | ⟨rfl, rfl⟩ | ⟨rfl, rfl⟩ := hi
  case inl => exact readOp_bitwise (.and o) o s (· &&& ·) fun _ _ _ => BitVec.getLsbD_and
  case inr.inl => exact readOp_bitwise (.ora o) o s (· ||| ·) fun _ _ _ => BitVec.getLsbD_or
  case inr.inr => exact readOp_bitwise (.eor o) o s (· ^^^ ·) fun _ _ _ => BitVec.getLsbD_xor

/-! ## Addition and subtraction -/

/-- The overflow bit says that the two summands have one sign and the result the other. -/
theorem overflow_bit (a m r : Byte) :
    (~~~(a ^^^ m) &&& (a ^^^ r)).getLsbD 7 = true ↔
      (128 ≤ a.toNat ↔ 128 ≤ m.toNat) ∧ ¬ (128 ≤ a.toNat ↔ 128 ≤ r.toNat) := by
  rw [← decide_eq_decide (p := 128 ≤ a.toNat), ← decide_eq_decide (p := 128 ≤ a.toNat), ← msb_eq, ← msb_eq, ← msb_eq]
  simp only [BitVec.getLsbD_and, BitVec.getLsbD_not, BitVec.getLsbD_xor]
  cases a.getLsbD 7 <;> cases m.getLsbD 7 <;> cases r.getLsbD 7 <;> decide

/-- The overflow bit of an addition with carry says that the signed sum is out of range (R148). -/
theorem overflow_iff (a m : Byte) (c : Bool) :
    (~~~(a ^^^ m) &&& (a ^^^ BitVec.ofNat 8 (a.toNat + m.toNat + c.toNat))).getLsbD 7 = true ↔
      a.toInt + m.toInt + c.toNat < -128 ∨ 127 < a.toInt + m.toInt + c.toNat := by
  have ha := a.isLt
  have hm := m.isLt
  have hc := c.toNat_le
  rw [overflow_bit, BitVec.toNat_ofNat, BitVec.toInt_eq_toNat_cond, BitVec.toInt_eq_toNat_cond]
  split <;> split <;> omega

/-- What the common addition leaves in A and the flags, as numbers (R140, R148). -/
theorem addToA_spec (m : Byte) (s : State) :
    (addToA m s).a.toNat = (s.a.toNat + m.toNat + (s.flag .c).toNat) % 256 ∧
    ((addToA m s).flag .c = true ↔ 256 ≤ s.a.toNat + m.toNat + (s.flag .c).toNat) ∧
    ((addToA m s).flag .v = true ↔ s.a.toInt + m.toInt + (s.flag .c).toNat < -128 ∨
      127 < s.a.toInt + m.toInt + (s.flag .c).toNat) ∧
    ZnOf (addToA m s).a (addToA m s) := by
  refine ⟨?a, ?c, ?v, znOf_of_flags (by simp [addToA]) (by simp [addToA])⟩
  case a => simp [addToA, State.carry]
  case c => simp [addToA, State.carry, Nat.succ_le_iff]
  case v =>
    rw [← overflow_iff]
    simp [addToA, State.carry]

/-- An instruction that adds a byte `g m` it makes of the data byte `m` to A with carry. -/
theorem readOp_add (i : Instr) (o : Operand) (s : State) (g : Byte → Byte) :
    ∃ t, readOp i o true (fun m u => addToA (g m) u) s = .next t ∧
      t.a.toNat = (s.a.toNat + (g (dataByte o s)).toNat + (s.flag .c).toNat) % 256 ∧
      (t.flag .c = true ↔ 256 ≤ s.a.toNat + (g (dataByte o s)).toNat + (s.flag .c).toNat) ∧
      (t.flag .v = true ↔ s.a.toInt + (g (dataByte o s)).toInt + (s.flag .c).toNat < -128 ∨
        127 < s.a.toInt + (g (dataByte o s)).toInt + (s.flag .c).toNat) ∧
      ZnOf t.a t ∧ Frame [.a] [.c, .v, .z, .n] s t ∧ SameMemory s t ∧ t.pc = s.pc ∧
      t.cycles = i.baseCycles + (if crosses o s then 1 else 0) := by
  obtain ⟨t, hnext, ht, hrest⟩ := readOp_spec i o true (fun m u => addToA (g m) u) s
    (fun m u => frame_addToA u (g m)) (fun _ _ => rfl) (fun _ _ => rfl)
  obtain ⟨ha, hc, hv, hzn⟩ := addToA_spec (g (dataByte o s)) (operandsRead o s)
  simp only [operandsRead_fields, flag_operandsRead] at ha hc hv
  subst ht
  exact ⟨_, hnext, ha, hc, hv, hzn, hrest⟩

/-- Settles O34: ADC adds the data byte itself. -/
theorem adcAddsWithCarry : Obligations.AdcAddsWithCarry := by
  unfold Obligations.AdcAddsWithCarry
  intro s o
  obtain ⟨t, hnext, ha, hc, hv, hrest⟩ := readOp_add (.adc o) o s id
  exact ⟨t, hnext, ⟨ha, hc, hv⟩, hrest⟩

theorem xor_FF (m : Byte) : m ^^^ 0xFF = ~~~m := BitVec.xor_allOnes

/-- The complement of a byte is the byte's negative less one, unsigned and signed (R141). -/
theorem toNat_complement (m : Byte) : (m ^^^ 0xFF).toNat = 255 - m.toNat := by
  rw [xor_FF, BitVec.toNat_not]

theorem toInt_complement (m : Byte) : (m ^^^ 0xFF).toInt = -1 - m.toInt := by
  have hm := m.isLt
  rw [BitVec.toInt_eq_toNat_cond, BitVec.toInt_eq_toNat_cond, toNat_complement]
  split <;> split <;> omega

/-- Settles O35: SBC adds the complement of the data byte, which is to subtract it with borrow. -/
theorem sbcSubtractsWithBorrow : Obligations.SbcSubtractsWithBorrow := by
  unfold Obligations.SbcSubtractsWithBorrow
  intro s o
  obtain ⟨t, hnext, ha, hc, hv, hrest⟩ := readOp_add (.sbc o) o s (· ^^^ 0xFF)
  have hm := (dataByte o s).isLt
  rw [toNat_complement] at ha hc
  rw [toInt_complement] at hv
  refine ⟨t, hnext, ⟨?a, hc.trans ?c, hv.trans ?v⟩, hrest⟩ <;> omega

/-! ## Compare -/

/-- What a compare leaves in the flags, as numbers. -/
theorem compareWith_spec (r m : Byte) (s : State) :
    ((compareWith r m s).flag .c = true ↔ m.toNat ≤ r.toNat) ∧ ((compareWith r m s).flag .z = true ↔ r = m) ∧
    ((compareWith r m s).flag .n = true ↔ 128 ≤ ((r.toNat : Int) - m.toNat) % 256) := by
  refine ⟨by simp [compareWith, BitVec.le_def], by simp [compareWith], ?n⟩
  have hr := r.isLt
  have hm := m.isLt
  have hflag : (compareWith r m s).flag .n = (r - m).getLsbD 7 := by simp [compareWith]
  rw [hflag, msb_eq, decide_eq_true_iff, BitVec.toNat_sub]
  omega

/-- A compare of a register with the data byte. -/
theorem readOp_compare (i : Instr) (o : Operand) (s : State) (pays : Bool) (r : Reg) :
    ∃ t, readOp i o pays (fun m u => compareWith (u.reg r) m u) s = .next t ∧
      (t.flag .c = true ↔ (dataByte o s).toNat ≤ (s.reg r).toNat) ∧ (t.flag .z = true ↔ s.reg r = dataByte o s) ∧
      (t.flag .n = true ↔ 128 ≤ (((s.reg r).toNat : Int) - (dataByte o s).toNat) % 256) ∧
      Frame [] [.c, .z, .n] s t ∧ SameMemory s t ∧ t.pc = s.pc ∧
      t.cycles = i.baseCycles + (if pays && crosses o s then 1 else 0) := by
  obtain ⟨t, hnext, ht, hrest⟩ := readOp_spec i o pays (fun m u => compareWith (u.reg r) m u) s
    (fun m u => frame_compareWith u _ m) (fun _ _ => rfl) (fun _ _ => rfl)
  obtain ⟨hc, hz, hn⟩ := compareWith_spec ((operandsRead o s).reg r) (dataByte o s) (operandsRead o s)
  rw [(frame_operandsRead o s).regs r (by simp)] at hc hz hn ht
  subst ht
  exact ⟨_, hnext, hc, hz, hn, hrest⟩

/-- Settles O43: each compare is of its register. -/
theorem comparesSetCarryZeroNegative : Obligations.ComparesSetCarryZeroNegative := by
  unfold Obligations.ComparesSetCarryZeroNegative
  intro s o i v pays hi
  simp only [List.mem_cons, Prod.mk.injEq, List.not_mem_nil, or_false] at hi
  obtain ⟨rfl, rfl, rfl⟩ | ⟨rfl, rfl, rfl⟩ | ⟨rfl, rfl, rfl⟩ := hi
  case inl => exact readOp_compare (.cmp o) o s true .a
  case inr.inl => exact readOp_compare (.cpx o) o s false .x
  case inr.inr => exact readOp_compare (.cpy o) o s false .y

/-! ## Instructions that write a result back -/

/-- A read-modify-write instruction leaves the flags as its act computed them from the data byte. -/
theorem modifyOp_flags (i : Instr) (o : Operand) (act : Byte → State → Byte × State) (s : State) {fs : List Flag}
    (hwf : Memory.wf s.ram) (hf : ∀ m u, Frame [] fs u (act m u).2) (hr : ∀ m u, (act m u).2.ram = u.ram)
    (hp : ∀ m u, (act m u).2.pc = u.pc) (ha : ∀ m u, (act m u).2.addrAbs = u.addrAbs) :
    ∃ t, modifyOp i o act s = .next t ∧ WroteBack o (act (dataByte o s) (operandsRead o s)).1 s t ∧
      (∀ f, t.flag f = (act (dataByte o s) (operandsRead o s)).2.flag f) ∧ Frame [.a] fs s t ∧ t.pc = s.pc ∧
      t.cycles = i.baseCycles := by
  obtain ⟨t, hnext, ht, hback, hrest⟩ := modifyOp_spec i o act s hwf hf hr hp ha
  exact ⟨t, hnext, hback, fun f => by simp [ht], hrest⟩

/-- An instruction that writes back `f m` for the data byte `m` and sets Z and N from it. -/
theorem modifyOp_setZN (i : Instr) (o : Operand) (s : State) (hwf : Memory.wf s.ram) (f : Byte → Byte) :
    ∃ t, modifyOp i o (fun m u => (f m, u.setZN (f m))) s = .next t ∧ WroteBack o (f (dataByte o s)) s t ∧
      ZnOf (f (dataByte o s)) t ∧ Frame [.a] [.z, .n] s t ∧ t.pc = s.pc ∧ t.cycles = i.baseCycles := by
  obtain ⟨t, hnext, hback, hflags, hrest⟩ := modifyOp_flags i o (fun m u => (f m, u.setZN (f m))) s hwf
    (fun m u => frame_setZN u (f m)) (fun _ _ => rfl) (fun _ _ => rfl) (fun _ _ => rfl)
  exact ⟨t, hnext, hback, znOf_of_flags (by simp [hflags]) (by simp [hflags]), hrest⟩

/-- Settles O37: INC and DEC write back the byte plus and minus one. -/
theorem incAndDecModifyMemory : Obligations.IncAndDecModifyMemory := by
  unfold Obligations.IncAndDecModifyMemory
  intro s o i r hs hi
  obtain ⟨hwf, -⟩ := hs.ram
  simp only [List.mem_cons, Prod.mk.injEq, List.not_mem_nil, or_false] at hi
  obtain ⟨rfl, rfl⟩ | ⟨rfl, rfl⟩ := hi
  case inl => exact modifyOp_setZN (.inc o) o s hwf (· + 1)
  case inr => exact modifyOp_setZN (.dec o) o s hwf (· - 1)

/-- An instruction that shifts the data byte `m`, with the carry `c`, to `f m c`, and the bit `out m` into the carry. -/
theorem modifyOp_shifted (i : Instr) (o : Operand) (s : State) (hwf : Memory.wf s.ram) (f : Byte → Bool → Byte)
    (out : Byte → Bool) :
    ∃ t, modifyOp i o (fun m u => shifted (f m (u.flag .c)) (out m) u) s = .next t ∧
      WroteBack o (f (dataByte o s) (s.flag .c)) s t ∧ t.flag .c = out (dataByte o s) ∧
      ZnOf (f (dataByte o s) (s.flag .c)) t ∧ Frame [.a] [.c, .z, .n] s t ∧ t.pc = s.pc ∧ t.cycles = i.baseCycles := by
  obtain ⟨t, hnext, hback, hflags, hrest⟩ := modifyOp_flags i o (fun m u => shifted (f m (u.flag .c)) (out m) u) s hwf
    (fun _ u => frame_shifted u _ _) (fun _ _ => rfl) (fun _ _ => rfl) (fun _ _ => rfl)
  simp only [shifted, flag_operandsRead, flag_setZN, flag_setFlag] at hback hflags
  exact ⟨t, hnext, hback, by simp [hflags], znOf_of_flags (by simp [hflags]) (by simp [hflags]), hrest⟩

/-- A byte shifted, as a number. -/
theorem shiftLeft_eq (v : Byte) : v <<< 1 = BitVec.ofNat 8 (2 * v.toNat) := by
  apply BitVec.eq_of_toNat_eq
  simp [Nat.shiftLeft_eq, Nat.mul_comm]

theorem shiftRight_eq (v : Byte) : v >>> 1 = BitVec.ofNat 8 (v.toNat / 2) := by
  have hv := v.isLt
  apply BitVec.eq_of_toNat_eq
  rw [BitVec.toNat_ushiftRight, Nat.shiftRight_eq_div_pow, BitVec.toNat_ofNat]
  omega

/-- A byte shifted left with a bit let in at bit 0, as a number. -/
theorem shiftLeft_or_carry (v : Byte) (c : Bool) :
    (v <<< 1) ||| (if c then 0x01 else 0x00) = BitVec.ofNat 8 (2 * v.toNat + c.toNat) := by
  have hdisjoint : v <<< 1 &&& (if c then 0x01 else 0x00) = 0 := by
    ext k hk
    cases c with
    | false => simp
    | true => simpa using fun hpos _ => hpos
  rw [← BitVec.add_eq_or_of_and_eq_zero _ _ hdisjoint, shiftLeft_eq, BitVec.ofNat_add]
  cases c <;> rfl

/-- A byte shifted right with a bit let in at bit 7, as a number. -/
theorem carry_or_shiftRight (v : Byte) (c : Bool) :
    (if c then 0x80 else 0x00) ||| (v >>> 1) = BitVec.ofNat 8 (v.toNat / 2 + 128 * c.toNat) := by
  have hbit7 : ∀ k, (hk : k < 8) → (128#8)[k] = true → 8 ≤ 1 + k := by decide
  have hdisjoint : (if c then 0x80 else 0x00) &&& v >>> 1 = 0 := by
    ext k hk
    cases c with
    | false => simp
    | true => simpa using fun h => BitVec.getLsbD_of_ge v (1 + k) (hbit7 k hk h)
  rw [← BitVec.add_eq_or_of_and_eq_zero _ _ hdisjoint, shiftRight_eq, BitVec.add_comm, BitVec.ofNat_add]
  cases c <;> rfl

/-- Settles O41: a shift lets a 0 in. -/
theorem shiftsMoveOneBitOut : Obligations.ShiftsMoveOneBitOut := by
  unfold Obligations.ShiftsMoveOneBitOut
  intro s o i r out hs hi
  obtain ⟨hwf, -⟩ := hs.ram
  simp only [List.mem_cons, Prod.mk.injEq, List.not_mem_nil, or_false] at hi
  obtain ⟨rfl, rfl, rfl⟩ | ⟨rfl, rfl, rfl⟩ := hi
  case inl =>
    rw [← shiftLeft_eq]
    exact modifyOp_shifted (.asl o) o s hwf (fun m _ => m <<< 1) (·.getLsbD 7)
  case inr =>
    rw [← shiftRight_eq]
    exact modifyOp_shifted (.lsr o) o s hwf (fun m _ => m >>> 1) (·.getLsbD 0)

/-- Settles O42: a rotate lets the old carry in. -/
theorem rotatesGoThroughTheCarry : Obligations.RotatesGoThroughTheCarry := by
  unfold Obligations.RotatesGoThroughTheCarry
  intro s o i r out hs hi
  obtain ⟨hwf, -⟩ := hs.ram
  simp only [List.mem_cons, Prod.mk.injEq, List.not_mem_nil, or_false] at hi
  obtain ⟨rfl, rfl, rfl⟩ | ⟨rfl, rfl, rfl⟩ := hi
  case inl =>
    rw [← shiftLeft_or_carry]
    exact modifyOp_shifted (.rol o) o s hwf (fun m c => (m <<< 1) ||| (if c then 0x01 else 0x00)) (·.getLsbD 7)
  case inr =>
    rw [← carry_or_shiftRight]
    exact modifyOp_shifted (.ror o) o s hwf (fun m c => (if c then 0x80 else 0x00) ||| (m >>> 1)) (·.getLsbD 0)

/-! ## Branches -/

/-- A taken branch leaves its target in `addr_abs` too; a branch not taken leaves `addr_abs` alone. -/
theorem branchOp_addrAbs {i : Instr} {d : Byte} {cond : State → Bool} {s t : State}
    (hc : ∀ w, cond (s.setAddrRel w) = cond s) (h : branchOp i d cond s = .next t) :
    t.addrAbs = if cond s then t.pc else s.addrAbs := by
  simp only [branchOp, addrMode, hc] at h
  split at h
  case isTrue htaken =>
    cases h
    simp [htaken]
  case isFalse hnot =>
    cases h
    simp [hnot]

/-- The signed displacement, added modulo 65536. -/
theorem add_sext16 (w : Word) (d : Byte) : w + sext16 d = BitVec.ofInt 16 (w.toNat + d.toInt) := by
  rw [BitVec.ofInt_add, BitVec.ofInt_natCast, BitVec.ofNat_toNat, BitVec.setWidth_eq]
  rfl

/-- The cycles of a taken branch: two, one more with extra cycles, and one more again to another page (R103). -/
theorem two_add_branchCycles (pc target : Word) (s : State) :
    2 + branchCycles pc target s =
      if s.params.branchExtraCycles then (if target.toNat / 256 = pc.toNat / 256 then 3 else 4) else 2 := by
  have hpage : hiByte target = hiByte pc ↔ target.toNat / 256 = pc.toNat / 256 := by
    rw [← BitVec.toNat_inj, toNat_hiByte, toNat_hiByte]
  simp only [branchCycles, ne_eq, hpage]
  split
  · split <;> simp [*]
  · rfl

/-- A branch on a condition that does not look at `addr_rel`, with the table's two base cycles. -/
theorem branchOp_next {i : Instr} (hbase : i.baseCycles = 2) (d : Byte) (cond : State → Bool) (s : State)
    (hc : ∀ w, cond (s.setAddrRel w) = cond s) :
    ∃ t, branchOp i d cond s = .next t ∧
      t.pc = (if cond s then BitVec.ofInt 16 (s.pc.toNat + d.toInt) else s.pc) ∧
      t.addrAbs = (if cond s then t.pc else s.addrAbs) ∧
      t.cycles = (if cond s && s.params.branchExtraCycles then
        (if t.pc.toNat / 256 = s.pc.toNat / 256 then 3 else 4) else 2) ∧
      Frame [] [] s t ∧ SameMemory s t := by
  obtain ⟨t, hnext, hpc, hcycles, hrest⟩ := branchOp_spec i d cond s hc
  refine ⟨t, hnext, add_sext16 s.pc d ▸ hpc, branchOp_addrAbs hc hnext, ?cycles, hrest⟩
  rw [hcycles, hbase, hpc]
  cases cond s with
  | true => exact two_add_branchCycles s.pc _ s
  | false => rfl

/-- Settles O44: each branch is on its flag. -/
theorem branchesGoWhereTheirFlagSays : Obligations.BranchesGoWhereTheirFlagSays := by
  unfold Obligations.BranchesGoWhereTheirFlagSays
  intro s d i op taken hi
  simp only [List.mem_cons, Prod.mk.injEq, List.not_mem_nil, or_false] at hi
  obtain ⟨rfl, rfl, rfl⟩ | ⟨rfl, rfl, rfl⟩ | ⟨rfl, rfl, rfl⟩ | ⟨rfl, rfl, rfl⟩ | ⟨rfl, rfl, rfl⟩ | ⟨rfl, rfl, rfl⟩ |
    ⟨rfl, rfl, rfl⟩ | ⟨rfl, rfl, rfl⟩ := hi
  · exact ⟨rfl, branchOp_next (i := .bcc d) rfl d (fun u => !u.flag .c) s fun _ => rfl⟩
  · exact ⟨rfl, branchOp_next (i := .bcs d) rfl d (fun u => u.flag .c) s fun _ => rfl⟩
  · exact ⟨rfl, branchOp_next (i := .beq d) rfl d (fun u => u.flag .z) s fun _ => rfl⟩
  · exact ⟨rfl, branchOp_next (i := .bmi d) rfl d (fun u => u.flag .n) s fun _ => rfl⟩
  · exact ⟨rfl, branchOp_next (i := .bne d) rfl d (fun u => !u.flag .z) s fun _ => rfl⟩
  · exact ⟨rfl, branchOp_next (i := .bpl d) rfl d (fun u => !u.flag .n) s fun _ => rfl⟩
  · exact ⟨rfl, branchOp_next (i := .bvc d) rfl d (fun u => !u.flag .v) s fun _ => rfl⟩
  · exact ⟨rfl, branchOp_next (i := .bvs d) rfl d (fun u => u.flag .v) s fun _ => rfl⟩

end Sys2Proof.Machine

/-! # The index registers' counting and the decimal flag -/

namespace Sys2Proof.Machine

/-! ## Implied-mode instructions that write a register -/

/-- An instruction of implied mode that writes a byte to a register and sets Z and N from it does nothing else. -/
theorem impliedOp_setReg (i : Instr) (s : State) {r : Reg} {set : State → Byte → State} (hset : RegWriter r set)
    (f : State → Byte) {v : Byte} (hf : f (s.setFetched s.a) = v) :
    ∃ t, impliedOp i (fun u => (set u (f u)).setZN (f u)) s = .next t ∧ t.reg r = v ∧ ZnOf v t ∧
      Frame [r] [.z, .n] s t ∧ SameMemory s t ∧ t.pc = s.pc ∧ t.cycles = i.baseCycles := by
  obtain ⟨t, hnext, ht, hrest⟩ := impliedOp_quiet i (fun u => (set u (f u)).setZN (f u)) s
    (fun u => (hset.frame u _).trans (frame_setZN _ _)) (fun u => by simp [hset.ram]) (fun u => by simp [hset.pc])
  rw [hf] at ht
  refine ⟨t, hnext, ?reg, znOf_of_flags (by simp [ht]) (by simp [ht]), hrest⟩
  rw [ht]
  exact (((frame_setZN _ _).trans (frame_charge _ _ _ _ _)).regs r (by simp)).trans (hset.reg _ _)

/-- Settles O38: each instruction writes its own register plus or minus one. -/
theorem indexRegistersCountModulo256 : Obligations.IndexRegistersCountModulo256 := by
  unfold Obligations.IndexRegistersCountModulo256
  intro s i op r v hi
  simp only [List.mem_cons, Prod.mk.injEq, List.not_mem_nil, or_false] at hi
  obtain ⟨rfl, rfl, rfl, rfl⟩ | ⟨rfl, rfl, rfl, rfl⟩ | ⟨rfl, rfl, rfl, rfl⟩ | ⟨rfl, rfl, rfl, rfl⟩ := hi
  · exact ⟨rfl, impliedOp_setReg .inx s regWriter_setX (fun u => u.x + 1) rfl⟩
  · exact ⟨rfl, impliedOp_setReg .iny s regWriter_setY (fun u => u.y + 1) rfl⟩
  · exact ⟨rfl, impliedOp_setReg .dex s regWriter_setX (fun u => u.x - 1) rfl⟩
  · exact ⟨rfl, impliedOp_setReg .dey s regWriter_setY (fun u => u.y - 1) rfl⟩

/-! ## The decimal flag -/

theorem exists_flag_bit {k : Nat} (hk : k < 8) : ∃ f : Flag, f.bit = k := by
  interval_cases k
  exacts [⟨.c, rfl⟩, ⟨.z, rfl⟩, ⟨.i, rfl⟩, ⟨.d, rfl⟩, ⟨.b, rfl⟩, ⟨.u, rfl⟩, ⟨.v, rfl⟩, ⟨.n, rfl⟩]

/-- The eight flags are all of P (R13). -/
theorem p_eq_of_flags {s t : State} (h : ∀ f, s.flag f = t.flag f) : s.p = t.p := by
  apply BitVec.eq_of_getLsbD_eq
  intro k hk
  obtain ⟨f, rfl⟩ := exists_flag_bit hk
  exact h f

theorem setFlag_comm {f g : Flag} (hfg : f ≠ g) (a b : Bool) (s : State) :
    (s.setFlag f a).setFlag g b = (s.setFlag g b).setFlag f a := by
  have hp : ((s.setFlag f a).setFlag g b).p = ((s.setFlag g b).setFlag f a).p := by
    refine p_eq_of_flags fun k => ?_
    by_cases hf : f = k
    · simp [← hf, hfg.symm]
    · simp [hf]
  exact congrArg s.setP hp

theorem setA_setFlag (v : Byte) (f : Flag) (b : Bool) (s : State) :
    (s.setFlag f b).setA v = (s.setA v).setFlag f b := rfl

/-- The common addition neither reads nor writes D. -/
theorem addToA_setFlag_d (m : Byte) (d : Bool) (s : State) :
    addToA m (s.setFlag .d d) = (addToA m s).setFlag .d d := by
  have hcarry : (s.setFlag .d d).carry = s.carry := by simp [State.carry]
  simp only [addToA, State.setZN, hcarry, setFlag_fields, setA_setFlag, ne_eq, reduceCtorEq, not_false_eq_true,
    setFlag_comm (f := .d)]

section
variable (i : Instr) (o : Operand) (pays : Bool) (act : Byte → State → State) (f : Flag) (b : Bool) (s : State)

theorem crosses_setFlag : crosses o (s.setFlag f b) = crosses o s := by
  simp only [crosses, State.setFlag, addrMode_setP]

theorem dataByte_setFlag : dataByte o (s.setFlag f b) = dataByte o s := by
  simp only [dataByte, State.setFlag, addrMode_setP, operandByte_setP]

theorem operandsRead_setFlag : operandsRead o (s.setFlag f b) = (operandsRead o s).setFlag f b := by
  simp only [State.setFlag, operandsRead, addrMode_setP, operandByte_setP, operandByte_fields, addrMode_fields]

theorem readOp_eq :
    readOp i o pays act s = .next (charge i (crosses o s) pays 0 (act (dataByte o s) (operandsRead o s))) := rfl

variable {i o pays act f b s}

/-- A reading instruction carries along a flag that its act carries along: the addressing modes and the data fetch do not
read P. -/
theorem readOp_setFlag {t : State} (hact : ∀ m u, act m (u.setFlag f b) = (act m u).setFlag f b)
    (h : readOp i o pays act s = .next t) : readOp i o pays act (s.setFlag f b) = .next (t.setFlag f b) := by
  cases h
  rw [readOp_eq, crosses_setFlag, dataByte_setFlag, operandsRead_setFlag, hact]
  rfl

end

/-- ADC and SBC carry D along: they neither read nor write it. -/
theorem exec_setFlag_d {i : Instr} {o : Operand} {d : Bool} {s t : State} (hi : i ∈ [Instr.adc o, .sbc o])
    (h : exec i s = .next t) : exec i (s.setFlag .d d) = .next (t.setFlag .d d) := by
  simp only [List.mem_cons, List.not_mem_nil, or_false] at hi
  obtain rfl | rfl := hi
  case inl => exact readOp_setFlag (act := addToA) (fun m u => addToA_setFlag_d m d u) h
  case inr => exact readOp_setFlag (act := subFromA) (fun m u => addToA_setFlag_d (m ^^^ 0xFF) d u) h

/-- Settles O36: the second run ends where the first does, with D as it was set. -/
theorem decimalFlagChangesNoResult : Obligations.DecimalFlagChangesNoResult := by
  unfold Obligations.DecimalFlagChangesNoResult
  intro s o d i t u hi ht hu
  cases hu.symm.trans (exec_setFlag_d hi ht)
  exact ⟨rfl, fun f hf => by rw [flag_setFlag, if_neg hf.symm], by simp, rfl⟩

end Sys2Proof.Machine

/-! # BIT -/

namespace Sys2Proof.Machine

/-- An and of two bytes is zero when they share no set bit. -/
theorem and_eq_zero_iff_no_shared_bit (a m : Byte) :
    a &&& m = 0 ↔ ∀ k, k < 8 → (a.getLsbD k && m.getLsbD k) = false := by
  simp [BitVec.eq_of_getLsbD_eq_iff]

/-- What BIT leaves in the flags it writes: the and shows in Z alone (R163). -/
theorem bitTest_spec (m : Byte) (s : State) :
    ((bitTest m s).flag .z = true ↔ s.a &&& m = 0) ∧ (bitTest m s).flag .n = m.getLsbD 7 ∧
    (bitTest m s).flag .v = m.getLsbD 6 := by
  simp [bitTest]

/-- Settles O40: BIT is a reading instruction that pays for no page cross and acts by `bitTest`. -/
theorem bitTestsTheByteItself : Obligations.BitTestsTheByteItself := by
  unfold Obligations.BitTestsTheByteItself
  refine ⟨fun lo hi => ⟨decode_operandBytes 0x24 lo hi [], decode_operandBytes 0x2C lo hi []⟩, fun s o => ?run⟩
  obtain ⟨t, hnext, ht, hframe, hmem, hpc, hcycles⟩ := readOp_spec (.bit o) o false bitTest s
    (fun m u => frame_bitTest u m) (fun _ _ => rfl) (fun _ _ => rfl)
  obtain ⟨hz, hn, hv⟩ := bitTest_spec (dataByte o s) (operandsRead o s)
  rw [(operandsRead_fields o s).1, and_eq_zero_iff_no_shared_bit] at hz
  subst ht
  exact ⟨_, hnext, hz, hn, hv, hframe, hmem, hpc, by simpa using hcycles⟩

end Sys2Proof.Machine

/-! # Stack pushes and pulls -/

namespace Sys2Proof.Machine

/-! ## Push -/

/-- `Push(v)` stores at the slot SP points at and nowhere else. -/
theorem stored_push {s : State} (hwf : Memory.wf s.ram) (v : Byte) : Stored (stackSlot s.sp) v s (push v s) :=
  (stored_memWrite hwf (stackSlot s.sp) v).congr (SameMemory.refl s) fun _ => rfl

/-- An instruction of implied mode that pushes a byte does nothing else. -/
theorem impliedOp_push (i : Instr) (s : State) (hwf : Memory.wf s.ram) (f : State → Byte) {v : Byte}
    (hf : f (s.setFetched s.a) = v) :
    ∃ t, impliedOp i (fun u => push (f u) u) s = .next t ∧ Stored (stackSlot s.sp) v s t ∧ t.sp = s.sp - 1 ∧
      Frame [.sp] [] s t ∧ t.pc = s.pc ∧ t.cycles = i.baseCycles := by
  obtain ⟨t, hnext, ht, hframe, hcycles⟩ := impliedOp_spec i (fun u => push (f u) u) s fun u => frame_push u (f u)
  rw [hf] at ht
  refine ⟨t, hnext, ?stored, by simp [ht], hframe, by simp [ht], hcycles⟩
  rw [ht]
  exact (stored_push (s := s.setFetched s.a) hwf v).congr (fun _ => rfl) fun _ => rfl

/-- Settles O45: each instruction pushes its own byte, and the invariant makes RAM canonical. -/
theorem pushesStoreBelowTheStackPointer : Obligations.PushesStoreBelowTheStackPointer := by
  unfold Obligations.PushesStoreBelowTheStackPointer
  intro s i op v hs hi
  obtain ⟨hwf, -⟩ := hs.ram
  simp only [List.mem_cons, Prod.mk.injEq, List.not_mem_nil, or_false] at hi
  obtain ⟨rfl, rfl, rfl⟩ | ⟨rfl, rfl, rfl⟩ := hi
  case inl =>
    obtain ⟨t, hnext, hpushed⟩ := impliedOp_push .pha s hwf (fun u => u.a) rfl
    exact ⟨rfl, t, hnext, toNat_stackSlot s.sp, hpushed⟩
  case inr =>
    obtain ⟨t, hnext, hpushed⟩ := impliedOp_push .php s hwf State.pushedP rfl
    exact ⟨rfl, t, hnext, toNat_stackSlot s.sp, hpushed⟩

/-! ## Pull -/

/-- An instruction of implied mode that pulls a byte stored at the next slot and acts on it, leaving SP, RAM and PC alone,
changes SP and what its act changes. -/
theorem impliedOp_pull (i : Instr) (s : State) {act : Byte → State → State} {rs : List Reg} {fs : List Flag} {v : Byte}
    (hv : peek (stackSlot (s.sp + 1)) s = some v) (hframe : ∀ m u, Frame rs fs u (act m u))
    (hsp : ∀ m u, (act m u).sp = u.sp) (hram : ∀ m u, (act m u).ram = u.ram) (hpc : ∀ m u, (act m u).pc = u.pc) :
    ∃ t, impliedOp i (fun u => act (pull u).1 (pull u).2) s = .next t ∧
      t = charge i false false 0 (act v ((s.setFetched s.a).setSp (s.sp + 1))) ∧ t.sp = s.sp + 1 ∧
      Frame (.sp :: rs) fs s t ∧ SameMemory s t ∧ t.pc = s.pc ∧ t.cycles = i.baseCycles := by
  have hpull : pull (s.setFetched s.a) = (v, (s.setFetched s.a).setSp (s.sp + 1)) := by
    rw [peek_stackSlot, Option.some_inj] at hv
    rw [pull_eq, ← hv]
    rfl
  obtain ⟨t, hnext, ht, hrest⟩ := impliedOp_quiet i (fun u => act (pull u).1 (pull u).2) s
    (fun u => (frame_pull u).trans (hframe _ _)) (fun u => by simp [hram]) (fun u => by simp [hpc])
  rw [hpull] at ht
  exact ⟨t, hnext, ht, by simp [ht, hsp], hrest⟩

/-- Settles O46: the next slot is in RAM, so the pulled byte is the one stored there. -/
theorem pullsReadAboveTheStackPointer : Obligations.PullsReadAboveTheStackPointer := by
  unfold Obligations.PullsReadAboveTheStackPointer
  refine ⟨rfl, rfl, fun s => ?_⟩
  have hv := peek_stackSlot (s.sp + 1) s
  refine ⟨_, hv, ?pla, ?plp⟩
  case pla =>
    obtain ⟨t, hnext, ht, hsp, hframe, hrest⟩ := impliedOp_pull .pla s (act := fun m u => (u.setA m).setZN m) hv
      (fun m u => (frame_setA u m).trans (frame_setZN _ m)) (by simp) (by simp) (by simp)
    exact ⟨t, hnext, by simp [ht], znOf_of_flags (by simp [ht]) (by simp [ht]), hsp,
      hframe.mono (by simp) (by simp), hrest⟩
  case plp =>
    obtain ⟨t, hnext, ht, hrest⟩ := impliedOp_pull .plp s (act := fun m u => u.setP (restoredP m)) hv
      (fun m u => frame_setP u (restoredP m)) (by simp) (by simp) (by simp)
    exact ⟨t, hnext, by simp [ht, restoredP], hrest⟩

end Sys2Proof.Machine

/-! # Jumps, subroutine calls and returns -/

namespace Sys2Proof.Machine

/-! ## JMP -/

/-- Settles O47: JMP acts on its resolved address by writing PC alone. -/
theorem jumpGoesToTheEffectiveAddress : Obligations.JumpGoesToTheEffectiveAddress := by
  unfold Obligations.JumpGoesToTheEffectiveAddress
  refine ⟨fun lo hi => ⟨decode_operandBytes 0x4C lo hi [], decode_operandBytes 0x6C lo hi []⟩, fun s o => ?run⟩
  obtain ⟨t, hnext, ht, hframe, hcycles⟩ := addressOp_spec (.jmp o) o (fun w u => u.setPc w) s
    fun w u => frame_setPc u w
  refine ⟨t, hnext, by simp [ht], hframe, hframe.sameMemory (by simp [ht]), fun ho => ?abs, fun ho => ?ind⟩
  case abs =>
    cases o with
    | abs w => exact hcycles
    | _ => cases ho
  case ind =>
    cases o with
    | ind w => exact hcycles
    | _ => cases ho

/-! ## The bytes of the stack page -/

/-- The slots of the stack page are 256 different RAM bytes. -/
theorem mirrors_stackSlot_iff {a b : Byte} : Mirrors (stackSlot a) (stackSlot b) ↔ a = b := by
  have ha := a.isLt
  have hb := b.isLt
  rw [Mirrors, toNat_stackSlot, toNat_stackSlot, ← BitVec.toNat_inj]
  omega

/-- A byte stored at a slot of the stack is read there, and every other slot is as before. -/
theorem Stored.peek_slot {s t : State} {sp v : Byte} (h : Stored (stackSlot sp) v s t) (sp' : Byte) :
    peek (stackSlot sp') t = if sp = sp' then some v else peek (stackSlot sp') s := by
  obtain ⟨hothers, hstored⟩ := h
  split
  case isTrue heq => exact hstored _ (mirrors_stackSlot_iff.mpr heq)
  case isFalse hne => exact hothers _ (mirrors_stackSlot_iff.not.mpr hne)

/-- A slot of the stack holds the same byte in two states with the same RAM. -/
theorem peek_stackSlot_congr {t u : State} (hram : u.ram = t.ram) (sp : Byte) :
    peek (stackSlot sp) u = peek (stackSlot sp) t := by
  rw [peek_stackSlot, peek_stackSlot, hram]

/-! ## Pushing a word, JSR -/

/-- From `s` to `t` a word was pushed, high byte first, at two stack slots going down from SP; no other byte
changed (R63). -/
structure PushedWord (w : Word) (s t : State) : Prop where
  high : peek (stackSlot s.sp) t = some (hiByte w)
  low : peek (stackSlot (s.sp - 1)) t = some (loByte w)
  others : ∀ a, ¬ Mirrors (stackSlot s.sp) a → ¬ Mirrors (stackSlot (s.sp - 1)) a → peek a t = peek a s
  sp : t.sp = s.sp - 2

/-- The second push goes to another slot than the first. -/
theorem pushedWord_pushWord {s : State} (hram : Memory.fits s.ram 2048) (w : Word) :
    PushedWord w s (pushWord w s) := by
  have hhigh : Stored (stackSlot s.sp) (hiByte w) s (push (hiByte w) s) := stored_push hram.1 _
  have hlow : Stored (stackSlot (s.sp - 1)) (loByte w) (push (hiByte w) s) (pushWord w s) :=
    stored_push ((writes_push s _).ram hram).1 _
  have hne : s.sp - 1 ≠ s.sp := by bv_omega
  exact {
    high := by rw [hlow.peek_slot, if_neg hne, hhigh.peek_slot, if_pos rfl]
    low := by rw [hlow.peek_slot, if_pos rfl]
    others := fun a ha ha' => (hlow.1 a ha').trans (hhigh.1 a ha)
    sp := by rw [pushWord_eq]; rfl }

/-- Settles O48: JSR pushes a word and then writes PC alone; absolute mode touches neither SP nor memory. -/
theorem jsrPushesItsLastByteAddress : Obligations.JsrPushesItsLastByteAddress := by
  unfold Obligations.JsrPushesItsLastByteAddress
  refine ⟨fun lo hi => decode_operandBytes 0x20 lo hi [], fun s w hs => ?run⟩
  obtain ⟨t, hnext, ht, hframe, hcycles⟩ := addressOp_spec (.jsr w) (.abs w)
    (fun dest u => (pushWord (u.pc - 1) u).setPc dest) s fun dest u => (frame_pushWord u _).trans (frame_setPc _ dest)
  obtain ⟨hhigh, hlow, hothers, hsp⟩ := pushedWord_pushWord (s := s.setAddrAbs w) hs.ram (s.pc - 1)
  subst ht
  exact ⟨_, hnext, rfl, hsp, hhigh, hlow, hothers, hframe, hcycles⟩

/-! ## RTS -/

/-- Settles O49: both slots are in RAM, so the pulled word is the one stored there. -/
theorem rtsReturnsToThePulledAddressPlusOne : Obligations.RtsReturnsToThePulledAddressPlusOne := by
  unfold Obligations.RtsReturnsToThePulledAddressPlusOne
  refine ⟨rfl, fun s => ?run⟩
  obtain ⟨t, hnext, ht, hframe, hcycles⟩ := impliedOp_spec .rts (fun u => (pullWord u).2.setPc ((pullWord u).1 + 1)) s
    fun u => (frame_pullWord u).trans (frame_setPc _ _)
  refine ⟨_, _, t, peek_stackSlot (s.sp + 1) s, peek_stackSlot (s.sp + 2) s, hnext, ?pc, by simp [ht], hframe,
    hframe.sameMemory (by simp [ht]), hcycles⟩
  simp [ht, BitVec.toNat_add, toNat_word16]

/-- Settles O52: RTS pulls the two bytes JSR pushed, and adds the one that JSR subtracted. -/
theorem rtsUndoesJsr : Obligations.RtsUndoesJsr := by
  unfold Obligations.RtsUndoesJsr
  intro s t u w hs ht hram hsp
  obtain ⟨-, hjsr⟩ := jsrPushesItsLastByteAddress
  obtain ⟨-, hrts⟩ := rtsReturnsToThePulledAddressPlusOne
  obtain ⟨t', ht', -, hsp', hhigh, hlow, -⟩ := hjsr s w hs
  cases ht'.symm.trans ht
  rw [hsp'] at hsp
  obtain ⟨lo, hi, v, hlo, hhi, hnext, hpc, hspv, -⟩ := hrts u
  have hlowSlot : u.sp + 1 = s.sp - 1 := by bv_omega
  have hhighSlot : u.sp + 2 = s.sp := by bv_omega
  rw [hlowSlot, peek_stackSlot_congr hram, hlow, Option.some_inj] at hlo
  rw [hhighSlot, peek_stackSlot_congr hram, hhigh, Option.some_inj] at hhi
  refine ⟨v, hnext, ?pc, hspv.trans hhighSlot⟩
  apply BitVec.eq_of_toNat_eq
  rw [hpc, ← hlo, ← hhi, ← toNat_word16, word16_hi_lo]
  bv_omega

/-! ## Interrupt entry -/

/-- The third push of an entry goes to another slot than the two of the resume address. -/
theorem pushedFrame_push {resume : Word} {s t : State} (h : PushedWord resume s t) (hram : Memory.wf t.ram)
    (status : Byte) : PushedFrame resume status s (push status t) := by
  obtain ⟨hhigh, hlow, hothers, hsp⟩ := h
  have hstatus : Stored (stackSlot (s.sp - 2)) status t (push status t) := hsp ▸ stored_push hram status
  exact {
    high := by rw [hstatus.peek_slot, if_neg (by bv_omega), hhigh]
    low := by rw [hstatus.peek_slot, if_neg (by bv_omega), hlow]
    status := by rw [hstatus.peek_slot, if_pos rfl]
    others := fun a ha ha' ha'' => (hstatus.1 a ha'').trans (hothers a ha ha')
    sp := by rw [push_eq, hsp]; exact BitVec.sub_sub .. }

/-- A pushed frame seen through states with the same memory and SP before and after it. -/
theorem PushedFrame.congr {resume : Word} {status : Byte} {s s' t t' : State} (h : PushedFrame resume status s t)
    (hs : SameMemory s' s) (hsp : s'.sp = s.sp) (ht : SameMemory t t') (hspt : t'.sp = t.sp) :
    PushedFrame resume status s' t' := by
  obtain ⟨hhigh, hlow, hstatus, hothers, hspst⟩ := h
  rw [← hsp] at hhigh hlow hstatus hothers hspst
  exact ⟨(ht _).trans hhigh, (ht _).trans hlow, (ht _).trans hstatus,
    fun a ha ha' ha'' => (ht a).trans ((hothers a ha ha' ha'').trans (hs a)), hspt.trans hspst⟩

/-- Entry through a vector pushes the interrupt frame and writes no other byte (R251). -/
theorem pushedFrame_takeInterrupt {s : State} (hram : Memory.fits s.ram 2048) (resume : Word) (status : Byte)
    (setsI : Bool) {vector : Word} (hv : 0x4000 ≤ vector.toNat) (hv' : 0x4000 ≤ (vector + 1).toNat) :
    PushedFrame resume status s (takeInterrupt resume status setsI vector s) := by
  have hpushed := pushedFrame_push (pushedWord_pushWord hram resume) ((writes_pushWord s resume).ram hram).1 status
  rw [takeInterrupt_eq s resume status setsI vector hv hv']
  cases setsI <;> exact hpushed.congr (SameMemory.refl s) rfl (fun _ => rfl) rfl

section
variable {s : State} (hram : Memory.fits s.ram 2048)
include hram

theorem pushedFrame_irq (hi : s.flag .i = false) : PushedFrame s.pc s.interruptP s (irq s) := by
  rw [irq, if_neg (by simp [hi])]
  exact (pushedFrame_takeInterrupt hram _ _ _ (by decide) (by decide)).congr (SameMemory.refl s) rfl (fun _ => rfl) rfl

theorem pushedFrame_nmi : PushedFrame s.pc s.interruptP s (nmi s) :=
  (pushedFrame_takeInterrupt hram _ _ _ (by decide) (by decide)).congr (SameMemory.refl s) rfl (fun _ => rfl) rfl

theorem pushedFrame_brk {t : State} (h : exec .brk s = .next t) : PushedFrame (s.pc + 1) s.pushedP s t := by
  cases h
  have hframe := pushedFrame_takeInterrupt (s := s.setFetched s.a) hram (s.pc + 1) s.pushedP true
    (vector := irqVector) (by decide) (by decide)
  exact hframe.congr (fun _ => rfl) rfl (fun _ => rfl) rfl

end

/-! ## RTI -/

/-- RTI takes P and PC from the three slots above SP (R213). -/
theorem exec_rti_of_peek {s : State} {v lo hi : Byte} (hv : peek (stackSlot (s.sp + 1)) s = some v)
    (hlo : peek (stackSlot (s.sp + 2)) s = some lo) (hhi : peek (stackSlot (s.sp + 3)) s = some hi) :
    ∃ t, exec .rti s = .next t ∧ t.p = restoredP v ∧ t.pc = word16 hi lo ∧ t.sp = s.sp + 3 ∧
      Frame [.sp] [.c, .z, .i, .d, .b, .u, .v, .n] s t ∧ SameMemory s t ∧ t.cycles = 6 := by
  rw [peek_stackSlot, Option.some_inj] at hv hlo hhi
  subst hv hlo hhi
  obtain ⟨t, hnext, ht, hframe, hcycles⟩ := impliedOp_spec .rti returnFromInterrupt s frame_returnFromInterrupt
  rw [returnFromInterrupt_eq] at ht
  exact ⟨t, hnext, by simp [ht], by simp [ht], by simp [ht], hframe, hframe.sameMemory (by simp [ht]),
    hcycles⟩

/-- RTI undoes an entry whose frame is still on the stack, if the pushed status byte restores P. -/
theorem exec_rti_of_pushedFrame {resume : Word} {status : Byte} {s t u : State} (h : PushedFrame resume status s t)
    (hp : restoredP status = s.p) (hram : u.ram = t.ram) (hsp : u.sp = t.sp) :
    ∃ v, exec .rti u = .next v ∧ v.pc = resume ∧ v.p = s.p ∧ v.sp = s.sp := by
  obtain ⟨hhigh, hlow, hstatus, -, hspt⟩ := h
  rw [hspt] at hsp
  have hstatusSlot : u.sp + 1 = s.sp - 2 := by bv_omega
  have hlowSlot : u.sp + 2 = s.sp - 1 := by bv_omega
  have hhighSlot : u.sp + 3 = s.sp := by bv_omega
  rw [← peek_stackSlot_congr hram, ← hstatusSlot] at hstatus
  rw [← peek_stackSlot_congr hram, ← hlowSlot] at hlow
  rw [← peek_stackSlot_congr hram, ← hhighSlot] at hhigh
  obtain ⟨v, hnext, hpv, hpc, hspv, -⟩ := exec_rti_of_peek hstatus hlow hhigh
  exact ⟨v, hnext, hpc.trans (word16_hi_lo resume), hpv.trans hp, hspv.trans hhighSlot⟩

/-- While P holds U = 1 and B = 0, a byte with P's other bits restores it. -/
theorem restoredP_eq_p {s : State} {v : Byte} (hs : s.StatusHeld)
    (hv : ∀ f, f ≠ .u → f ≠ .b → v.getLsbD f.bit = s.flag f) : restoredP v = s.p := by
  obtain ⟨hu, hb⟩ := hs
  refine p_eq_of_flags (s := s.setP (restoredP v)) fun f => ?_
  rw [flag_setP, restoredP_bit]
  split
  case isTrue hf => rw [hf, hu]
  case isFalse hfu =>
    split
    case isTrue hf => rw [hf, hb]
    case isFalse hfb => exact hv f hfu hfb

theorem restoredP_interruptP {s : State} (hs : s.StatusHeld) : restoredP s.interruptP = s.p :=
  restoredP_eq_p hs fun f hu hb => by cases f <;> simp_all [State.interruptP, State.flag, Flag.bit]

theorem restoredP_pushedP {s : State} (hs : s.StatusHeld) : restoredP s.pushedP = s.p :=
  restoredP_eq_p hs fun f hu hb => by cases f <;> simp_all [State.pushedP, State.flag, Flag.bit]

theorem hostCall_irq {s : State} (h : s.phase = .running) : hostCall .irq s = .next (irq s) := if_pos h

theorem hostCall_nmi {s : State} (h : s.phase = .running) : hostCall .nmi s = .next (nmi s) := if_pos h

/-- Settles O57: each entry pushes an interrupt frame whose status byte restores P. -/
theorem rtiUndoesEveryEntry : Obligations.RtiUndoesEveryEntry := by
  unfold Obligations.RtiUndoesEveryEntry
  intro s t u resume hs hrunning hentry hram hsp
  have hheld := hs.statusHeld hrunning
  obtain ⟨hi, ht, rfl⟩ | ⟨ht, rfl⟩ | ⟨ht, rfl⟩ := hentry
  case inl =>
    cases (hostCall_irq hrunning).symm.trans ht
    exact exec_rti_of_pushedFrame (pushedFrame_irq hs.ram hi) (restoredP_interruptP hheld) hram hsp
  case inr.inl =>
    cases (hostCall_nmi hrunning).symm.trans ht
    exact exec_rti_of_pushedFrame (pushedFrame_nmi hs.ram) (restoredP_interruptP hheld) hram hsp
  case inr.inr => exact exec_rti_of_pushedFrame (pushedFrame_brk hs.ram ht) (restoredP_pushedP hheld) hram hsp

end Sys2Proof.Machine

/-! # Flag instructions and register transfers -/

namespace Sys2Proof.Machine

/-- An instruction of implied mode that writes a flag does nothing else. -/
theorem impliedOp_setFlag (i : Instr) (f : Flag) (b : Bool) (s : State) :
    ∃ t, impliedOp i (fun u => u.setFlag f b) s = .next t ∧ t.flag f = b ∧ Frame [] [f] s t ∧ SameMemory s t ∧
      t.pc = s.pc ∧ t.cycles = i.baseCycles := by
  obtain ⟨t, hnext, ht, hrest⟩ := impliedOp_quiet i (fun u => u.setFlag f b) s
    (fun u => frame_setFlag u f b) (fun _ => rfl) (fun _ => rfl)
  exact ⟨t, hnext, by simp [ht], hrest⟩

/-- Settles O53: each of the seven is an implied-mode write of its flag, for two base cycles. -/
theorem flagInstructionsWriteTheirFlag : Obligations.FlagInstructionsWriteTheirFlag := by
  unfold Obligations.FlagInstructionsWriteTheirFlag
  intro s i op f b hi
  simp only [List.mem_cons, Prod.mk.injEq, List.not_mem_nil, or_false] at hi
  obtain ⟨rfl, rfl, rfl, rfl⟩ | ⟨rfl, rfl, rfl, rfl⟩ | ⟨rfl, rfl, rfl, rfl⟩ | ⟨rfl, rfl, rfl, rfl⟩ |
    ⟨rfl, rfl, rfl, rfl⟩ | ⟨rfl, rfl, rfl, rfl⟩ | ⟨rfl, rfl, rfl, rfl⟩ := hi <;>
    exact ⟨rfl, impliedOp_setFlag _ _ _ s⟩

/-- TXS copies X to SP and sets no flag (R231). -/
theorem exec_txs_writes_sp (s : State) :
    ∃ t, exec .txs s = .next t ∧ t.sp = s.x ∧ Frame [.sp] [] s t ∧ SameMemory s t ∧ t.pc = s.pc ∧ t.cycles = 2 := by
  obtain ⟨t, hnext, ht, hrest⟩ := impliedOp_quiet .txs (fun u => u.setSp u.x) s
    (fun u => frame_setSp u u.x) (fun _ => rfl) (fun _ => rfl)
  exact ⟨t, hnext, by simp [ht], hrest⟩

/-- Settles O54: the five that set Z and N write their destination from the source, which implied mode leaves alone;
TXS writes SP alone. -/
theorem transfersCopyTheirRegister : Obligations.TransfersCopyTheirRegister := by
  unfold Obligations.TransfersCopyTheirRegister
  refine fun s i op v r => ⟨fun hi => ?copies, rfl, exec_txs_writes_sp s⟩
  simp only [List.mem_cons, Prod.mk.injEq, List.not_mem_nil, or_false] at hi
  obtain ⟨rfl, rfl, rfl, rfl⟩ | ⟨rfl, rfl, rfl, rfl⟩ | ⟨rfl, rfl, rfl, rfl⟩ | ⟨rfl, rfl, rfl, rfl⟩ |
    ⟨rfl, rfl, rfl, rfl⟩ := hi
  · exact ⟨rfl, impliedOp_setReg .tax s regWriter_setX (fun u => u.a) rfl⟩
  · exact ⟨rfl, impliedOp_setReg .tay s regWriter_setY (fun u => u.a) rfl⟩
  · exact ⟨rfl, impliedOp_setReg .tsx s regWriter_setX (fun u => u.sp) rfl⟩
  · exact ⟨rfl, impliedOp_setReg .txa s regWriter_setA (fun u => u.x) rfl⟩
  · exact ⟨rfl, impliedOp_setReg .tya s regWriter_setA (fun u => u.y) rfl⟩

end Sys2Proof.Machine

/-! # The PPU's frame -/

namespace Sys2Proof.Machine

/-! ## One PPU tick -/

section
variable {s : State}

theorem ppuClock_within_line (hc : s.cycle ≠ 340) : ppuClock s = s.setPpuPosition s.scanline (s.cycle + 1) :=
  if_neg (by omega)

theorem ppuClock_line_end (hc : s.cycle = 340) (hl : s.scanline ≠ 260) :
    ppuClock s = s.setPpuPosition (s.scanline + 1) 0 := by
  rw [ppuClock, if_pos (by omega), if_neg (by omega)]

theorem ppuClock_frame_end (hc : s.cycle = 340) (hl : s.scanline = 260) :
    ppuClock s = (s.setPpuPosition (-1) 0).setFrameComplete true := by
  rw [ppuClock, if_pos (by omega), if_pos (by omega)]

end

/-- Settles O9: the CPU leaves the counters as the PPU tick made them, which goes by where in the frame it starts. -/
theorem ppuTickAdvancesTheCounters : Obligations.PpuTickAdvancesTheCounters := by
  unfold Obligations.PpuTickAdvancesTheCounters
  intro s hs
  obtain ⟨t, hstep, hout⟩ := step_completes_of_clocked hs
  refine ⟨t, hstep, by simpa using hout.sysclk, ?_⟩
  rw [hout.cycle, hout.scanline, hout.frameComplete]
  refine ⟨fun hc => ?within, fun hc hl => ?lineEnd, fun hc hl => ?frameEnd⟩
  case within =>
    rw [ppuClock_within_line (s := s.setSysclk (s.sysclk + 1)) hc]
    exact ⟨rfl, rfl, rfl⟩
  case lineEnd =>
    rw [ppuClock_line_end (s := s.setSysclk (s.sysclk + 1)) hc hl]
    exact ⟨rfl, rfl, rfl⟩
  case frameEnd =>
    rw [ppuClock_frame_end (s := s.setSysclk (s.sysclk + 1)) hc hl]
    exact ⟨rfl, rfl, rfl⟩

/-! ## A whole frame -/

/-- From `s`, at the start of a frame, the machine has come `n` ticks into it, to `t`, with `frame_complete` as it was. -/
structure IntoFrame (s : State) (n : Nat) (t : State) : Prop where
  run : RunsTo s n t
  clocked : t.Clocked
  sysclk : t.sysclk = s.sysclk + n
  frameComplete : t.frameComplete = s.frameComplete
  position : ppuPosition t = n
  cycle : t.cycle ≤ 340

section
variable {s t : State} {n : Nat}

theorem intoFrame_start (hs : s.Clocked) (hline : s.scanline = -1) (hcycle : s.cycle = 0) : IntoFrame s 0 s where
  run := runsTo_zero s
  clocked := hs
  sysclk := rfl
  frameComplete := rfl
  position := by simp [ppuPosition, hline, hcycle]
  cycle := by omega

theorem RunsTo.snoc {u : State} (h : RunsTo s n t) (hstep : step t = .next u) : RunsTo s (n + 1) u :=
  h.trans (runsTo_succ hstep (runsTo_zero u))

/-- A tick that does not end the frame moves one position on, in its line or to the start of the next. -/
theorem IntoFrame.next (h : IntoFrame s n t) (hn : n + 1 < 262 * 341) : ∃ u, IntoFrame s (n + 1) u := by
  obtain ⟨hrun, hclocked, hsysclk, hframe, hpos, hle⟩ := h
  obtain ⟨u, hstep, hclk, hwithin, hlineEnd, -⟩ := ppuTickAdvancesTheCounters t hclocked
  have hu : u.Clocked := of_exists_next hstep (step_keeps_clocked hclocked)
  unfold ppuPosition at hpos
  obtain ⟨hframe', hpos', hle'⟩ :
      u.frameComplete = t.frameComplete ∧ (u.scanline + 1) * 341 + u.cycle = n + 1 ∧ u.cycle ≤ 340 := by
    by_cases hc : t.cycle = 340
    · obtain ⟨hcycle, hline, hkept⟩ := hlineEnd hc (by omega)
      exact ⟨hkept, by omega, by omega⟩
    · obtain ⟨hcycle, hline, hkept⟩ := hwithin hc
      exact ⟨hkept, by omega, by omega⟩
  exact ⟨u, hrun.snoc hstep, hu, by omega, hframe'.trans hframe, hpos', hle'⟩

/-- Every position of a frame is reached, in as many ticks. -/
theorem exists_intoFrame (hs : s.Clocked) (hline : s.scanline = -1) (hcycle : s.cycle = 0) (hn : n < 262 * 341) :
    ∃ t, IntoFrame s n t := by
  induction n with
  | zero => exact ⟨s, intoFrame_start hs hline hcycle⟩
  | succ n ih =>
    obtain ⟨t, ht⟩ := ih (by omega)
    exact ht.next hn

end

/-- Settles O10: the last position of the frame is the end of scanline 260, and one more tick sets `frame_complete`. -/
theorem frameCompletesAfter89342Ticks : Obligations.FrameCompletesAfter89342Ticks := by
  unfold Obligations.FrameCompletesAfter89342Ticks
  refine fun s hs hline hcycle => ⟨?whole, fun n hn => ?within⟩
  case whole =>
    obtain ⟨t, hrun, hclocked, hsysclk, -, hpos, hle⟩ :=
      exists_intoFrame (n := 262 * 341 - 1) hs hline hcycle (by decide)
    rw [ppuPosition] at hpos
    obtain ⟨u, hstep, hclk, -, -, hframeEnd⟩ := ppuTickAdvancesTheCounters t hclocked
    obtain ⟨hcycle', hline', hframe⟩ := hframeEnd (by omega) (by omega)
    exact ⟨u, hrun.snoc hstep, hframe, hline', hcycle', by omega⟩
  case within =>
    obtain ⟨t, ht⟩ := exists_intoFrame hs hline hcycle hn
    exact ⟨t, ht.run, ht.frameComplete, ht.position⟩

end Sys2Proof.Machine

/-! # The software interrupt and the return from interrupt -/

namespace Sys2Proof.Machine

/-- Settles O50: the three slots are in RAM, so the pulled bytes are the ones stored there. -/
theorem rtiRestoresStatusAndPc : Obligations.RtiRestoresStatusAndPc := by
  unfold Obligations.RtiRestoresStatusAndPc
  refine ⟨rfl, fun s => ?_⟩
  have hv := peek_stackSlot (s.sp + 1) s
  have hlo := peek_stackSlot (s.sp + 2) s
  have hhi := peek_stackSlot (s.sp + 3) s
  obtain ⟨t, hnext, hp, hpc, hrest⟩ := exec_rti_of_peek hv hlo hhi
  exact ⟨_, _, _, t, hv, hlo, hhi, hnext, hp, by rw [hpc, toNat_word16], hrest⟩

/-! ## Entry through a vector -/

/-- A vector above the PPU window holds the target read from it (R248). -/
theorem vectorHolds_vectorTarget {vector : Word} (hv : 0x4000 ≤ vector.toNat) (hv' : 0x4000 ≤ (vector + 1).toNat)
    (s : State) : VectorHolds vector (vectorTarget vector s) s := by
  obtain ⟨lo, hlo⟩ := peek_isSome_of_ge (s := s) hv
  obtain ⟨hi, hhi⟩ := peek_isSome_of_ge (s := s) hv'
  rw [vectorTarget, hlo, hhi]
  exact ⟨hlo.trans (by simp), hhi.trans (by simp)⟩

section
variable (s : State) (resume : Word) (status : Byte) (setsI : Bool) {vector : Word} (hv : 0x4000 ≤ vector.toNat)
  (hv' : 0x4000 ≤ (vector + 1).toNat)
include hv hv'

/-- An entry goes where its vector pointed before the pushes, which do not reach it. -/
theorem vectorHolds_takeInterrupt : VectorHolds vector (takeInterrupt resume status setsI vector s).pc s := by
  rw [takeInterrupt_eq s resume status setsI vector hv hv']
  exact vectorHolds_vectorTarget hv hv' s

theorem flag_i_takeInterrupt :
    (takeInterrupt resume status setsI vector s).flag .i = (s.flag .i || setsI) := by
  rw [takeInterrupt_eq s resume status setsI vector hv hv']
  cases setsI <;> simp

end

/-! ## BRK -/

/-- Settles O51: BRK is an entry through the IRQ vector that sets I; implied mode leaves memory and P alone. -/
theorem brkEntersThroughTheIrqVector : Obligations.BrkEntersThroughTheIrqVector := by
  unfold Obligations.BrkEntersThroughTheIrqVector
  refine ⟨rfl, fun s hs => ?_⟩
  have hv : 0x4000 ≤ irqVector.toNat := by decide
  have hv' : 0x4000 ≤ (irqVector + 1).toNat := by decide
  obtain ⟨t, hnext, ht, hframe, hcycles⟩ := impliedOp_spec .brk
    (fun u => takeInterrupt (u.pc + 1) u.pushedP true irqVector u) s
    fun u => frame_takeInterrupt u _ _ _ irqVector hv hv'
  refine ⟨t, hnext, pushedFrame_brk hs.ram hnext, ?vector, ?flag, hframe, hcycles⟩
  case vector =>
    rw [ht]
    exact vectorHolds_takeInterrupt (s.setFetched s.a) _ _ _ hv hv'
  case flag => simp [ht, flag_i_takeInterrupt _ _ _ _ hv hv']

end Sys2Proof.Machine

/-! # Reset, the first fetch and the interrupt inputs -/

namespace Sys2Proof.Machine

/-! ## Reset -/

/-- What `Bus.reset()` writes: PC from the reset vector, and every other value fixed (R32, R280, R281). -/
theorem busReset_eq (s : State) :
    busReset s = { s with
      a := 0, x := 0, y := 0, sp := 0xFD, p := 0x24, pc := vectorTarget resetVector s, fetched := 0, addrAbs := 0,
      addrRel := 0, opcode := 0, cycles := s.params.resetCycles, sysclk := 0, phase := .running } := by
  rw [busReset, cpuReset, readVector_eq (by decide) (by decide)]
  rfl

/-- `Bus.reset()` goes where the reset vector points (R281). -/
theorem vectorHolds_busReset (s : State) : VectorHolds resetVector (busReset s).pc s := by
  rw [busReset_eq]
  exact vectorHolds_vectorTarget (by decide) (by decide) s

/-- Settles O58: the vector lies above the PPU window, so reading it changes nothing. -/
theorem busResetSetsTheResetValues : Obligations.BusResetSetsTheResetValues := by
  unfold Obligations.BusResetSetsTheResetValues
  exact fun s => ⟨busReset s, rfl, vectorHolds_busReset s, by rw [busReset_eq]⟩

theorem Memory.ofBytesFrom_replicate_zero (k n : Nat) : Memory.ofBytesFrom k (List.replicate n 0) = [] := by
  induction n generalizing k with
  | zero => rfl
  | succ n ih =>
    rw [List.replicate_succ, Memory.ofBytesFrom, ih]
    rfl

/-- An array of zero bytes is the memory that lists nothing. -/
theorem Memory.ofBytes_take_replicate_zero (n : Nat) : Memory.ofBytes ((List.replicate n 0).take n) = [] := by
  rw [List.take_replicate, Nat.min_self]
  exact Memory.ofBytesFrom_replicate_zero 0 n

/-- Settles O59: zero arrays list no cell, and with no cartridge both bytes of the reset vector read 0. -/
theorem resetStateIsConstructionThenReset : Obligations.ResetStateIsConstructionThenReset := by
  unfold Obligations.ResetStateIsConstructionThenReset
  simp only [State.construct, Memory.ofBytes_take_replicate_zero]
  rw [busReset_eq]
  rfl

/-! ## The first fetch -/

/-- With no call pending, only `Bus.clock()` follows a reset. -/
theorem clocked_busReset {s : State} (hd : s.driver = []) : (busReset s).Clocked := by
  rw [busReset_eq]
  exact ⟨rfl, hd⟩

/-- With no cycles left at a CPU tick boundary, two ticks pass before the next CPU tick. -/
theorem two_steps_to_cpu_tick {s : State} (hs : s.Clocked) (h3 : s.sysclk % 3 = 0) :
    ∃ t, RunsTo s 2 t ∧ CountedTo s 2 s.cycles t := by
  obtain ⟨t₁, hstep₁, h₁⟩ := step_between_cpu_ticks hs (by omega)
  have hclk₁ := h₁.sysclk
  obtain ⟨t₂, hstep₂, h₂⟩ := step_between_cpu_ticks (h₁.clocked hs) (by omega)
  rw [h₁.cycles] at h₂
  exact ⟨t₂, runsTo_succ hstep₁ (runsTo_succ hstep₂ (runsTo_zero t₂)), h₁.trans h₂⟩

/-- Settles O12: the reset's cycles count down, and two more ticks lead to the CPU tick that fetches. -/
theorem firstFetchAfterReset : Obligations.FirstFetchAfterReset := by
  unfold Obligations.FirstFetchAfterReset
  intro s hd
  have hs : (busReset s).Clocked := clocked_busReset hd
  have hclk : (busReset s).sysclk = 0 := rfl
  have hcycles : (busReset s).cycles = s.params.resetCycles := by rw [busReset_eq]
  obtain ⟨u, hrun, hu⟩ := remaining_cycles_count_down (congrArg BitVec.toNat hcycles) hs (by rw [hclk])
  have hclku := hu.sysclk
  obtain ⟨t, hrun', ht⟩ := two_steps_to_cpu_tick (hu.clocked hs) (by omega)
  rw [hu.cycles] at ht
  have hcount := hu.trans ht
  have hclkt := hcount.sysclk
  have heq := hcount.eq
  rw [← hclkt] at heq
  refine ⟨t, hrun.trans hrun', hcount.cycles, by omega, heq, ?vector⟩
  case vector =>
    rw [heq]
    exact vectorHolds_busReset s

/-! ## The interrupt inputs -/

theorem frame_setCycles (s : State) (n : Byte) : Frame [] [] s (s.setCycles n) :=
  ⟨fun r _ => by cases r <;> rfl, by simp, rfl, rfl, by constructor <;> rfl⟩

theorem irq_masked {s : State} (hi : s.flag .i = true) : irq s = s := if_pos hi

theorem irq_unmasked {s : State} (hi : s.flag .i = false) :
    irq s = (takeInterrupt s.pc s.interruptP true irqVector s).setCycles s.params.irqCycles :=
  if_neg (by simp [hi])

/-- An entry and its cycles write SP and I, and nothing else outside memory, PC and `cycles`. -/
theorem frame_takeInterrupt_setCycles (s : State) (resume : Word) (status : Byte) (setsI : Bool) {vector : Word}
    (n : Byte) (hv : 0x4000 ≤ vector.toNat) (hv' : 0x4000 ≤ (vector + 1).toNat) :
    Frame [.sp] [.i] s ((takeInterrupt resume status setsI vector s).setCycles n) :=
  (frame_takeInterrupt s resume status setsI vector hv hv').trans (frame_setCycles _ n)

/-- Settles O56: each input is an entry through its vector, `irq()` only with I clear; both vectors lie above the PPU
window. -/
theorem interruptInputsEnterTheirHandlers : Obligations.InterruptInputsEnterTheirHandlers := by
  unfold Obligations.InterruptInputsEnterTheirHandlers
  intro s hs hrunning
  obtain ⟨hirq, hirq'⟩ : 0x4000 ≤ irqVector.toNat ∧ 0x4000 ≤ (irqVector + 1).toNat := by decide
  obtain ⟨hnmi, hnmi'⟩ : 0x4000 ≤ nmiVector.toNat ∧ 0x4000 ≤ (nmiVector + 1).toNat := by decide
  rw [hostCall_irq hrunning, hostCall_nmi hrunning]
  refine ⟨fun hi => ?masked, fun hi => ⟨irq s, rfl, pushedFrame_irq hs.ram hi, ?irq⟩,
    nmi s, rfl, pushedFrame_nmi hs.ram, ?nmi⟩
  case masked => rw [irq_masked hi]
  case irq =>
    rw [irq_unmasked hi]
    refine ⟨vectorHolds_takeInterrupt _ _ _ _ hirq hirq', ?_,
      frame_takeInterrupt_setCycles _ _ _ _ _ hirq hirq', rfl⟩
    exact (flag_i_takeInterrupt _ _ _ _ hirq hirq').trans (Bool.or_true _)
  case nmi =>
    exact ⟨vectorHolds_takeInterrupt _ _ _ _ hnmi hnmi', flag_i_takeInterrupt _ _ _ _ hnmi hnmi',
      frame_takeInterrupt_setCycles _ _ _ _ _ hnmi hnmi', rfl⟩

end Sys2Proof.Machine

/-! # Bus and PPU-side accesses by address -/

namespace Sys2Proof.Machine

/-! ## The Bus outside RAM -/

/-- Settles O20: only RAM takes a Bus write. -/
theorem writesOutsideRamChangeNothing : Obligations.WritesOutsideRamChangeNothing :=
  fun s _ v ha => busWrite_high ha v s

/-- With no cartridge there is nothing to claim a read (R48). -/
theorem cartCpuRead_none {s : State} (h : s.cart = none) (addr : Word) : cartCpuRead addr s = none := by
  rw [cartCpuRead, cartReadOffset, h]

/-- What no cartridge claims above the PPU window reads as the unmapped value (R45). -/
theorem peek_unmapped {addr : Word} {s : State} (h : 0x4000 ≤ addr.toNat) (hun : addr.toNat < 0x8000 ∨ s.cart = none) :
    peek addr s = some s.params.unmappedReadValue := by
  rw [peek, hun.elim cartCpuRead_low (cartCpuRead_none · addr)]
  simp only [if_neg (show ¬ addr.toNat ≤ 0x1FFF by omega), if_neg (show ¬ addr.toNat ≤ 0x3FFF by omega)]

/-- Settles O21: an unmapped address has the unmapped value for its stored byte. -/
theorem unmappedAddressesReadTheDefault : Obligations.UnmappedAddressesReadTheDefault := by
  unfold Obligations.UnmappedAddressesReadTheDefault
  exact ⟨rfl, fun s a ro ha hun => ⟨busRead_of_peek (peek_unmapped ha hun) ro, fun v => busWrite_high (by omega) v s⟩⟩

/-- Settles O22: a PPU register has no stored byte. -/
theorem ppuRegisterReadsAreFree : Obligations.PpuRegisterReadsAreFree := by
  unfold Obligations.PpuRegisterReadsAreFree
  intro s a ro ha ha'
  rw [busRead_eq, readByte, readFree, peek_ppu ha ha']
  rfl

/-! ## The PPU-side map as numbers -/

/-- A bit of an address below bit 14, as a number, does not depend on the bits above it. -/
theorem getLsbD_iff_mod (a : Word) {k : Nat} (hk : k < 14) :
    a.getLsbD k = true ↔ a.toNat % 0x4000 / 2 ^ k % 2 = 1 := by
  have hmod : (a.toNat % 0x4000).testBit k = a.toNat.testBit k :=
    (Nat.testBit_mod_two_pow a.toNat 14 k).trans (by rw [decide_eq_true hk, Bool.true_and])
  rw [BitVec.getLsbD, ← hmod, Nat.testBit_eq_decide_div_mod_eq, decide_eq_true_iff]

/-- The palette index: the address modulo 32, with the four mirrored entries folded (R60). -/
theorem paletteIndex_eq (a : Word) :
    paletteIndex a = if a.toNat % 0x4000 % 0x20 ∈ [0x10, 0x14, 0x18, 0x1C] then a.toNat % 0x4000 % 0x20 - 0x10
      else a.toNat % 0x4000 % 0x20 := by
  have hlow : (a &&& 0x001F).toNat = a.toNat % 0x4000 % 0x20 := by
    rw [BitVec.toNat_and, Nat.mod_mod_of_dvd _ (by decide)]
    exact Nat.and_two_pow_sub_one_eq_mod a.toNat 5
  simp only [paletteIndex, hlow, List.mem_cons, List.not_mem_nil, or_false]

theorem ppuByte_nametable {m : Mirror} {addr : Word} (h : 0x2000 ≤ addr.toNat % 0x4000)
    (h' : addr.toNat % 0x4000 < 0x3F00) :
    ppuByte m addr = some (if usesNametable1 m addr then .nametable1 (addr.toNat % 0x4000 % 0x400)
      else .nametable0 (addr.toNat % 0x4000 % 0x400)) := by
  rw [ppuByte, if_neg (by omega), if_pos h']

theorem ppuByte_palette {m : Mirror} {addr : Word} (h : 0x3F00 ≤ addr.toNat % 0x4000) :
    ppuByte m addr = some (.palette (paletteIndex addr)) := by
  rw [ppuByte, if_neg (by omega), if_neg (by omega)]

/-- Settles O25: a read gives the byte its address selects, and the selection is by the address's numbers. -/
theorem ppuPortReadsByAddress : Obligations.PpuPortReadsByAddress := by
  unfold Obligations.PpuPortReadsByAddress
  intro s c addr hm a second
  have hsecond : usesNametable1 c.mirror addr = true ↔ second := by
    simp only [second]
    cases c.mirror with
    | vertical => exact getLsbD_iff_mod addr (k := 10) (by decide)
    | horizontal => exact getLsbD_iff_mod addr (k := 11) (by decide)
    | oneScreenLo => exact iff_of_false Bool.false_ne_true id
    | oneScreenHi => exact iff_of_true rfl trivial
  have hpalette : 0x3F00 ≤ a → ppuRead c addr s = s.palette.read (paletteIndex addr) := fun h =>
    ppuRead_of_some hm (ppuByte_palette h)
  refine ⟨fun h => ?pattern, fun h h' hs => ?second, fun h h' hs => ?first, fun h hfold => ?folded,
    fun h hfold => ?plain⟩
  case pattern => rw [ppuRead_eq s hm, ppuByte_eq_none.mpr h]
  case second => exact ppuRead_of_some hm ((ppuByte_nametable h h').trans (by rw [if_pos (hsecond.mpr hs)]))
  case first => exact ppuRead_of_some hm ((ppuByte_nametable h h').trans (by rw [if_neg (hsecond.not.mpr hs)]))
  case folded => rw [hpalette h, paletteIndex_eq, if_pos hfold]
  case plain => rw [hpalette h, paletteIndex_eq, if_neg hfold]

end Sys2Proof.Machine

/-! # NOP and the illegal opcodes -/

namespace Sys2Proof.Machine

/-- The opcode map has the one illegal descriptor for every illegal byte (R85, decision D14). -/
theorem descriptor_illegal : ∀ op ∈ illegalOpcodes, descriptor op = Row.illegal op :=
  List.map_inj_left.mp (rfl : illegalOpcodes.map descriptor = illegalOpcodes.map Row.illegal)

theorem mem_illegalOpcodes_of_instrOf {op lo hi b : Byte} (h : instrOf op lo hi = .xxx b) : op ∈ illegalOpcodes := by
  have hop : (Instr.xxx b).opcode = some op := h ▸ opcode_instrOf op lo hi
  obtain ⟨hb, rfl⟩ : b ∈ illegalOpcodes ∧ b = op := by simpa [Instr.opcode] using hop
  exact hb

/-- Settles O5: an illegal byte has the illegal descriptor, and XXX encodes to an illegal byte only. -/
theorem illegalOpcodesShareOneDescriptor : Obligations.IllegalOpcodesShareOneDescriptor := by
  unfold Obligations.IllegalOpcodesShareOneDescriptor
  refine ⟨rfl, by decide, fun op lo hi => ⟨fun hop => ?illegal, fun hop b h => hop (mem_illegalOpcodes_of_instrOf h)⟩⟩
  case illegal =>
    rw [instrOf_illegal lo hi op hop, descriptor_illegal op hop]
    exact ⟨rfl, rfl, rfl⟩

theorem decode_illegal {op : Byte} (hop : op ∈ illegalOpcodes) : decode [op] = .ok (.xxx op, []) := by
  have hdecode := decode_operandBytes op 0 0 []
  rwa [instrOf_illegal 0 0 op hop, descriptor_illegal op hop] at hdecode

theorem baseCycles_xxx {op : Byte} (hop : op ∈ illegalOpcodes) : (Instr.xxx op).baseCycles = 2 := by
  obtain ⟨-, hbase, -⟩ := Laws.Encoding.illegal_entry op hop
  rw [← hbase, descriptor_illegal op hop]
  rfl

/-- XXX reports its event and does nothing else (R234, R241). -/
theorem exec_xxx_reports (op : Byte) (s : State) :
    ∃ t, exec (.xxx op) s = .next t ∧ t.events = s.events ++ [.illegalOpcode op (s.pc - 1)] ∧
      Frame [] [] s { t with events := s.events } ∧ SameMemory s t ∧ t.pc = s.pc ∧
      t.cycles = (Instr.xxx op).baseCycles :=
  ⟨_, rfl, rfl, frame_around (.xxx op) false false 0 (frame_addrMode s .imp) (Frame.refl _), fun _ => rfl, rfl,
    by simp [charge_cycles]⟩

/-- Settles O55: NOP's act is nothing, and that of XXX is its report. -/
theorem nopAndIllegalOpcodesChangeNoRegister : Obligations.NopAndIllegalOpcodesChangeNoRegister := by
  unfold Obligations.NopAndIllegalOpcodesChangeNoRegister
  refine fun s => ⟨rfl, ?nop, fun op hop => ⟨decode_illegal hop, baseCycles_xxx hop ▸ exec_xxx_reports op s⟩⟩
  case nop =>
    obtain ⟨t, hnext, -, hrest⟩ := impliedOp_quiet .nop id s Frame.refl (fun _ => rfl) (fun _ => rfl)
    exact ⟨t, hnext, hrest⟩

end Sys2Proof.Machine

/-! # Host calls in and out of order -/

namespace Sys2Proof.Machine

section
variable {s : State}

/-! ## Calls that are served -/

theorem step_of_driver_nil (h : s.driver = []) : step s = hostCall .clock s := by
  rw [step, h]

theorem step_of_driver_cons {call : HostCall} {rest : List HostCall} (h : s.driver = call :: rest) :
    step s = hostCall call { s with driver := rest } := by
  rw [step, h]
  rfl

theorem hostCall_clock (h : s.phase = .running) : hostCall .clock s = busClock s := if_pos h

theorem served_eq (t : State) : served t = .next { t with phase := t.phase.next } := rfl

theorem hostCall_busRead (a : Word) (ro : Bool) :
    hostCall (.busRead a ro) s =
      .next { (busRead a ro s).2 with reply := some (busRead a ro s).1, phase := s.phase.next } := by
  rw [hostCall, busRead_eq]
  rfl

theorem hostCall_busWrite (a : Word) (v : Byte) :
    hostCall (.busWrite a v) s = .next { busWrite a v s with phase := s.phase.next } := by
  rw [hostCall, busWrite_eq]
  rfl

theorem hostCall_ppuRead {c : Cartridge} (h : s.cart = some c) (a : Word) :
    hostCall (.ppuRead a) s = .next { s with reply := some (ppuRead c a s), phase := s.phase.next } := by
  calc hostCall (.ppuRead a) s
    _ = served (s.setReply (some (ppuRead c a s))) := by simp only [hostCall, h]
    _ = _ := served_eq _

theorem ppuWrite_phase (c : Cartridge) (a : Word) (v : Byte) : (ppuWrite c a v s).phase = s.phase := by
  rw [ppuWrite_shape]
  rfl

theorem hostCall_ppuWrite {c : Cartridge} (h : s.cart = some c) (a : Word) (v : Byte) :
    hostCall (.ppuWrite a v) s = .next { ppuWrite c a v s with phase := s.phase.next } := by
  simp only [hostCall, h, served_eq, ppuWrite_phase]

theorem hostCall_load {b : Bundle} {c : Cartridge} (h : s.phase = .loading) (hload : loadCartridge b = some c) :
    hostCall (.load b) s = .next { s with cart := some c, phase := .built } := by
  calc hostCall (.load b) s
    _ = served (s.setCart (some c)) := (if_pos h).trans (by rw [hload])
    _ = _ := by rw [served_eq, State.setCart, h, Phase.next]

/-! ## Calls that are refused -/

theorem afterReset_refused (h : s.phase ≠ .running) (r : Result) : afterReset s r = .refused .notReset := if_neg h

theorem hostCall_ppu_noCartridge (h : s.cart = none) (a : Word) (v : Byte) :
    hostCall (.ppuRead a) s = .refused .noCartridge ∧ hostCall (.ppuWrite a v) s = .refused .noCartridge := by
  simp only [hostCall, h, and_self]

theorem hostCall_load_malformed {b : Bundle} (h : s.phase = .loading) (hload : loadCartridge b = none) :
    hostCall (.load b) s = .fault .loadError := by
  exact (if_pos h).trans (by rw [hload])

theorem hostCall_load_late (h : s.phase ≠ .loading) (b : Bundle) : hostCall (.load b) s = .refused .loadNotFirst :=
  if_neg h

end

/-- Settles O60: one equation per call, in the order of the statement. -/
theorem callsOutOfOrderAreRefused : Obligations.CallsOutOfOrderAreRefused := by
  unfold Obligations.CallsOutOfOrderAreRefused
  exact fun s => ⟨step_of_driver_nil, fun _ _ => step_of_driver_cons, ⟨phaseNext_ne_loading _, phaseNext_of_ne⟩,
    hostCall_clock, hostCall_busRead, hostCall_busWrite, rfl,
    fun _ h a v => ⟨hostCall_ppuRead h a, hostCall_ppuWrite h a v⟩, fun h _ _ => hostCall_load h,
    fun h => ⟨afterReset_refused h _, afterReset_refused h _, afterReset_refused h _⟩, hostCall_ppu_noCartridge,
    fun h _ => hostCall_load_malformed h, hostCall_load_late⟩

end Sys2Proof.Machine
